-- ==== Sys2Proof/Word.lean ====
section
/-! DEFINITION. The word types of the FFIB block: the 64-bit bus word and lane-F register word, and the 12-bit bus word
address (rules R5, R7, R60). -/

namespace Sys2Proof

/-- A 64-bit word: one bus transfer, one lane-F register, one limb of a lane-B register, `CMD` (rules R5, R60, R62). -/
abbrev Word := BitVec 64

/-- A 12-bit word address of the host register space (rule R60). -/
abbrev Addr := BitVec 12

end Sys2Proof
end

