-- ==== Sys2Proof/Config.lean ====
section
/-! DEFINITION. The parameters of the block (rule R5): the two lanes, the widths the spec fixes, and the one open
parameter `L`, the number of limbs of lane B, which has no value here. -/

namespace Sys2Proof

/-- The two lanes (rules R12, R90): `f` is 64 bits wide and uses `MM64`, `b` is `W = 64·L` bits wide and uses `MMW`. -/
inductive Lane where
  | f
  | b
  deriving DecidableEq, Repr

namespace Config

/-- `XLEN_F`, the width of every lane-F register (rule R5). -/
def xlenF : Nat := 64

/-- `WIDE_F`, the width of the lane-F intermediate domain (rules R5, R120). -/
def wideF : Nat := 128

/-- The open parameter `L` less one (rule R5: `1 ≤ L ≤ 256`). It has no body: nothing can be proved of its value beyond
the range, so a claim about the machine after reset holds for every `L` in range. DESIGN CHOICE, log entry 1. -/
opaque limbsLessOne : Fin 256

/-- `L`, the number of 64-bit limbs of every lane-B register of the instance that `State.reset` describes (rule R5). -/
def limbs : Nat := limbsLessOne.val + 1

/-- `W = 64·L`, the width of every lane-B register of an instance with `L` limbs (rule R5). -/
def widthB (L : Nat) : Nat := 64 * L

/-- `XW(ln)`, the operand width of a lane in an instance with `L` limbs (rule R5). -/
def laneWidth (L : Nat) : Lane → Nat
  | .f => xlenF
  | .b => widthB L

/-- `WIDE_B` = 2·W, enough for every lane-B intermediate (rules R5, R141), which the model holds as an exact natural. -/
def wideB (L : Nat) : Nat := 2 * widthB L

/-- `LVLW` = ⌈log2(max(64, W) + 1)⌉, the width of the level counter `LVL` (rule R5). For `x ≥ 1`, ⌈log2(x + 1)⌉ is
⌊log2 x⌋ + 1. -/
def lvlW (L : Nat) : Nat := Nat.log2 (max xlenF (widthB L)) + 1

end Config
end Sys2Proof
end

