-- ==== Sys2Proof/Syntax.lean ====
section
/-! DEFINITION. The instruction set: one constructor for each of the 19 command words of `spec/opcode_table.json`
(rule R92). A command has no operand field (rule R90: no register fields, no immediate). -/

namespace Sys2Proof

/-- The 19 legal commands, in the order of the opcode table (rules R91, R92). -/
inductive Instr where
  /-- `NOP`, word 0x00 (R220). -/
  | nop
  /-- `MULMOD.F`, word 0x01 (R122). -/
  | mulmodF
  /-- `ADDMOD.F`, word 0x02 (R123). -/
  | addmodF
  /-- `SUBMOD.F`, word 0x03 (R124). -/
  | submodF
  /-- `DBLMOD.F`, word 0x04 (R125). -/
  | dblmodF
  /-- `REDUCE.F`, word 0x05 (R126). -/
  | reduceF
  /-- `HALVE.F`, word 0x06 (R161). -/
  | halveF
  /-- `ISEVEN.F`, word 0x07 (R162). -/
  | isevenF
  /-- `CMP.F`, word 0x08 (R163). -/
  | cmpF
  /-- `FIB.F`, word 0x09 (R181). -/
  | fibF
  /-- `MULMOD.B`, word 0x11 (R142). -/
  | mulmodB
  /-- `ADDMOD.B`, word 0x12 (R143). -/
  | addmodB
  /-- `SUBMOD.B`, word 0x13 (R144). -/
  | submodB
  /-- `DBLMOD.B`, word 0x14 (R145). -/
  | dblmodB
  /-- `REDUCE.B`, word 0x15 (R146). -/
  | reduceB
  /-- `HALVE.B`, word 0x16 (R164). -/
  | halveB
  /-- `ISEVEN.B`, word 0x17 (R165). -/
  | isevenB
  /-- `CMP.B`, word 0x18 (R166). -/
  | cmpB
  /-- `FIB.B`, word 0x19 (R182). -/
  | fibB
  deriving DecidableEq, Repr

end Sys2Proof
end

