-- ==== Sys2Proof/WellFormed.lean ====
section
/-! DEFINITION. Which command terms are legal: the raw field triple of format `CMD` (rule R90) and the three checks a
legal triple passes (rules R93, R94). An `Instr` has no field that could be out of range. -/

namespace Sys2Proof

/-- The fields of the one command format `CMD` (rule R90). -/
structure CmdFields where
  /-- `OP`, bits 3:0. -/
  op : BitVec 4
  /-- `LANE`, bit 4. -/
  lane : BitVec 1
  /-- `RSV`, bits 63:5. -/
  rsv : BitVec 59
  deriving DecidableEq, Repr

/-- Bits 63:5 must be 0 (rules R90, R94). -/
def CmdFields.rsvOk (c : CmdFields) : Bool := c.rsv == 0

/-- `OP` 10 to 15 are reserved (rules R91, R93). -/
def CmdFields.opOk (c : CmdFields) : Bool := c.op.toNat < 10

/-- `NOP` has no lane: the word 0x10 is illegal (rules R92, R93). -/
def CmdFields.laneOk (c : CmdFields) : Bool := !(c.op == 0 && c.lane == 1)

/-- A legal field triple (rule R94). -/
def CmdFields.wf (c : CmdFields) : Bool := c.rsvOk && c.opOk && c.laneOk

/-- Every `Instr` is well formed: a command has no register field, no immediate and no variable-length form
(rules R90, R95), so a constructor of `Instr` leaves nothing to check. -/
def Instr.wf (_ : Instr) : Bool := true

end Sys2Proof
end

