-- ==== Sys2Proof/Decode.lean ====
section
/-! DEFINITION. Decoding a command word (rules R90 to R94), total on all 2^64 words, with a name for each way a word is
illegal, and the encoder written from the same tables. -/

namespace Sys2Proof

/-- Why a word is illegal (rule R94, in the order of its tests). -/
inductive DecodeError where
  /-- A bit of 63:5 is 1. -/
  | reservedBits
  /-- `OP` is 10 to 15. -/
  | reservedOp
  /-- The word 0x10: `OP` = 0 with `LANE` = 1. -/
  | nopWithLane
  deriving DecidableEq, Repr

/-- The field triple of a word (rule R90). -/
def fieldsOf (w : Word) : CmdFields :=
  { op := w.extractLsb' 0 4, lane := w.extractLsb' 4 1, rsv := w.extractLsb' 5 59 }

/-- The word of a field triple: `{RSV, LANE, OP}` (rule R90). -/
def wordOf (c : CmdFields) : Word := c.rsv ++ c.lane ++ c.op

/-- The operation code table (rule R91) read from a code and a lane: `none` for the reserved codes and for
`OP` = 0 with `LANE` = 1. -/
def instrOf : Nat → Lane → Option Instr
  | 0, .f => some .nop
  | 1, .f => some .mulmodF
  | 2, .f => some .addmodF
  | 3, .f => some .submodF
  | 4, .f => some .dblmodF
  | 5, .f => some .reduceF
  | 6, .f => some .halveF
  | 7, .f => some .isevenF
  | 8, .f => some .cmpF
  | 9, .f => some .fibF
  | 1, .b => some .mulmodB
  | 2, .b => some .addmodB
  | 3, .b => some .submodB
  | 4, .b => some .dblmodB
  | 5, .b => some .reduceB
  | 6, .b => some .halveB
  | 7, .b => some .isevenB
  | 8, .b => some .cmpB
  | 9, .b => some .fibB
  | _, _ => none

/-- `LANE` = 0 is lane F, `LANE` = 1 is lane B (rule R90). -/
def laneOf (b : BitVec 1) : Lane := if b = 1 then .b else .f

/-- Decode a word written to `CMD` (rule R94). -/
def decode (w : Word) : Except DecodeError Instr :=
  let c := fieldsOf w
  if !c.rsvOk then .error .reservedBits
  else if !c.opOk then .error .reservedOp
  else
    match instrOf c.op.toNat (laneOf c.lane) with
    | some i => .ok i
    | none => .error .nopWithLane

/-- The operation code `OP` of a command (rule R91). -/
def Instr.opCode : Instr → BitVec 4
  | .nop => 0
  | .mulmodF | .mulmodB => 1
  | .addmodF | .addmodB => 2
  | .submodF | .submodB => 3
  | .dblmodF | .dblmodB => 4
  | .reduceF | .reduceB => 5
  | .halveF | .halveB => 6
  | .isevenF | .isevenB => 7
  | .cmpF | .cmpB => 8
  | .fibF | .fibB => 9

/-- The lane of a command; `NOP` has none and its `LANE` bit is 0 (rule R92). -/
def Instr.lane : Instr → Lane
  | .nop | .mulmodF | .addmodF | .submodF | .dblmodF | .reduceF | .halveF | .isevenF | .cmpF | .fibF => .f
  | .mulmodB | .addmodB | .submodB | .dblmodB | .reduceB | .halveB | .isevenB | .cmpB | .fibB => .b

/-- The `LANE` bit (rule R90). -/
def laneBit : Lane → BitVec 1
  | .f => 0
  | .b => 1

/-- The field triple of a command (rules R90, R91). -/
def Instr.fields (i : Instr) : CmdFields := { op := i.opCode, lane := laneBit i.lane, rsv := 0 }

/-- The command word of a command (rule R92). -/
def encode (i : Instr) : Word := wordOf i.fields

/-- Whether a command is a reducing operation, one whose issue checks the modulus (rules R12, R91). -/
def Instr.reducing : Instr → Bool
  | .mulmodF | .addmodF | .submodF | .dblmodF | .reduceF | .fibF => true
  | .mulmodB | .addmodB | .submodB | .dblmodB | .reduceB | .fibB => true
  | .nop | .halveF | .isevenF | .cmpF | .halveB | .isevenB | .cmpB => false

/-- Whether a command is `FIB` on either lane (rule R91, `OP` = 9). -/
def Instr.isFib : Instr → Bool
  | .fibF | .fibB => true
  | .nop | .mulmodF | .addmodF | .submodF | .dblmodF | .reduceF | .halveF | .isevenF | .cmpF => false
  | .mulmodB | .addmodB | .submodB | .dblmodB | .reduceB | .halveB | .isevenB | .cmpB => false

/-- The instruction the decoder reads from a table word. A command is one 64-bit bus word, bit 0 the least significant
(rules R62, R90); the bits above `nbits` are 0, and a number of more than 64 bits is no command word. -/
def decodeTableWord (_nbits w : Nat) : Option Instr :=
  if w < 18446744073709551616 then
    match decode (BitVec.ofNat 64 w) with
    | .ok i => some i
    | .error _ => none
  else none

end Sys2Proof
end

