-- ==== Sys2Proof/Machine/State.lean ====
section
/-! DEFINITION. The whole state of one FFIB block (rule R20) as plain data, the data of the agent that drives it (the
host on the bus, rule R10), the reasons a step can stop, and the state after reset (rules R35, R270). -/

namespace Sys2Proof.Machine

/-- The names of a lane's registers: five host-visible ones (rules R21, R22) and six working ones (rule R26). -/
inductive Reg where
  /-- Index. -/
  | N
  /-- Modulus. -/
  | M
  /-- First operand. -/
  | X
  /-- Second operand. -/
  | Y
  /-- Result. -/
  | R
  /-- Working: the index being halved. -/
  | K
  /-- Working: first component of the pair. -/
  | A
  /-- Working: second component of the pair. -/
  | B
  /-- Working: `F(2·k2) mod m` of the level. -/
  | C
  /-- Working: `F(2·k2 + 1) mod m` of the level. -/
  | D
  /-- Working: temporary. -/
  | T
  deriving DecidableEq, Repr

/-- The registers of one lane, each holding a value of type `α` (rules R21, R22, R26). -/
structure LaneRegs (α : Type) where
  N : α
  M : α
  X : α
  Y : α
  R : α
  K : α
  A : α
  B : α
  C : α
  D : α
  T : α
  deriving DecidableEq, Repr

/-- The controller's phase (rule R25). Its binary encoding is not specified (U4). -/
inductive Phase where
  /-- No command in flight. -/
  | idle
  /-- A primitive command waits for its one micro-step. -/
  | exec
  /-- `FIB`, halving the index. -/
  | desc
  /-- `FIB`, loading the base pair. -/
  | base
  /-- `FIB`, climbing one level. -/
  | asc
  /-- `FIB`, writing the result. -/
  | fin
  deriving DecidableEq, Repr

/-- One thing the host does on the bus (rules R60, R100, R101). -/
inductive HostAccess where
  /-- `BusWrite(addr, v)`. -/
  | write (addr : Addr) (v : Word)
  /-- `BusRead(addr)`. -/
  | read (addr : Addr)
  /-- `WAIT`: read `STATUS` again and again until the value read has bit 0 = 0. -/
  | wait
  deriving DecidableEq, Repr

/-- What happens in one clock cycle (rules R10, R96, R224): whether `rst` is 1, whether the host presents its next
access, and whether the core's enabled micro-step takes effect at this clock edge. -/
structure Turn where
  rst  : Bool
  host : Bool
  tick : Bool
  deriving DecidableEq, Repr

/-- What a read returned to the host: the address and the word. -/
structure ReadRecord where
  addr  : Addr
  value : Word
  deriving DecidableEq, Repr

/-- Why a step can stop. None of these can happen in a state that meets the invariants of rule R36. -/
inductive Fault where
  /-- A multiplier unit was presented a reducing code with `be_m = 0`; its answer is undefined (rule R98, U1). Raised by
  the micro-steps that reduce, only where rule R36 (b) fails. Safe (log entry 5). -/
  | backendModulusZero
  /-- The latched command has no micro-step in this phase: a primitive command outside `IDLE` and `EXEC`, `FIB` in `EXEC`,
  or micro-step 6 with `LVL = 0` (rules R190, R223, R36 (f)). Raised by the command's own meaning. Safe (log entry 6). -/
  | sequencing
  /-- The core is busy and `CMD` holds no legal word, against rule R36 (d). Raised by the micro-step. Safe (log entry 7). -/
  | latchedCommandIllegal
  deriving DecidableEq, Repr

/-- Why the model gives an instruction no meaning. -/
inductive Refusal where
  /-- The instruction has no meaning yet: raised only by `exec`'s refused arms, of which there are none. Safe. -/
  | notModelled (mnemonic : String)
  deriving DecidableEq, Repr

/-- The state of one instance of the block (rule R20) and of the host that drives it (rule R10). -/
structure State where
  /-- `L`, the number of limbs of lane B: a constant of the instance (rules R5, R34). Log entry 1. -/
  L : Nat
  /-- Lane F, 64-bit registers (rules R21, R26). -/
  f : LaneRegs Word
  /-- Lane B, naturals below `2^W` (rules R22, R26, R140). Log entry 2. -/
  b : LaneRegs Nat
  /-- `PHASE` (rule R25). -/
  phase : Phase
  /-- `LVL`, a natural below `2^LVLW` (rules R5, R25). Log entry 12. -/
  lvl : Nat
  /-- `UPC`, 0 to 6 (rule R25). -/
  upc : Fin 7
  /-- `CMD`, the last accepted command word (rule R27). -/
  cmd : Word
  /-- `STATUS.DONE` (rule R28). -/
  done : Bool
  /-- `STATUS.ERR` (rule R28). -/
  err : Bool
  /-- `STATUS.ERRCODE` (rules R28, R240). -/
  errcode : BitVec 4
  /-- `STATUS.GT` (rules R28, R30). -/
  gt : Bool
  /-- `STATUS.EQ` (rules R28, R30). -/
  eq : Bool
  /-- `STATUS.EV` (rules R28, R30). -/
  ev : Bool
  /-- `CTRL.IE_DONE` (rule R31). -/
  ieDone : Bool
  /-- `CTRL.IE_ERR` (rule R31). -/
  ieErr : Bool
  /-- The host: the accesses it has still to make, first one first (rules R10, R100, R233). Log entry 3. -/
  program : List HostAccess
  /-- The interleaving still to come, one entry a clock cycle (rules R34, R224). Log entry 4. -/
  schedule : List Turn
  /-- The host: what its reads returned, latest first (rule R233). Log entry 3. -/
  reads : List ReadRecord
  deriving DecidableEq, Repr

/-- Every register of a lane at one value. -/
def LaneRegs.fill {α : Type} (v : α) : LaneRegs α :=
  { N := v, M := v, X := v, Y := v, R := v, K := v, A := v, B := v, C := v, D := v, T := v }

/-- The block with `L` limbs right after reset: every register 0, `PHASE = IDLE` (rules R35, R270). The host has nothing
to do and no interleaving is fixed (log entries 3, 4). -/
def State.resetWith (L : Nat) : State :=
  { L := L
    f := LaneRegs.fill 0
    b := LaneRegs.fill 0
    phase := .idle
    lvl := 0
    upc := 0
    cmd := 0
    done := false
    err := false
    errcode := 0
    gt := false
    eq := false
    ev := false
    ieDone := false
    ieErr := false
    program := []
    schedule := []
    reads := [] }

/-- The machine right after reset, for the instance whose number of limbs is the open parameter (rules R5, R35). -/
def State.reset : State := State.resetWith Config.limbs

end Sys2Proof.Machine
end

