-- ==== Sys2Proof/Machine/Ops.lean ====
section
/-! DEFINITION. The shared operations on the state: reading and writing a register of a lane, recording an error and
clearing it (rules R242, R249), accepting and refusing a command (rule R221), completing one (rules R192, R223), and
reset (rule R270). -/

namespace Sys2Proof.Machine

/-- The outcome of a step of this machine. -/
abbrev Result := Host.Outcome State Fault Refusal

/-- Do `g` after a step that went on; a fault or a refusal stands. -/
def andThen (r : Result) (g : State → Result) : Result :=
  match r with
  | .next s => g s
  | .fault e => .fault e
  | .refused e => .refused e

/-- One register of a lane. -/
def LaneRegs.get {α : Type} (l : LaneRegs α) : Reg → α
  | .N => l.N
  | .M => l.M
  | .X => l.X
  | .Y => l.Y
  | .R => l.R
  | .K => l.K
  | .A => l.A
  | .B => l.B
  | .C => l.C
  | .D => l.D
  | .T => l.T

/-- A lane with one register replaced. -/
def LaneRegs.set {α : Type} (l : LaneRegs α) (r : Reg) (v : α) : LaneRegs α :=
  match r with
  | .N => { l with N := v }
  | .M => { l with M := v }
  | .X => { l with X := v }
  | .Y => { l with Y := v }
  | .R => { l with R := v }
  | .K => { l with K := v }
  | .A => { l with A := v }
  | .B => { l with B := v }
  | .C => { l with C := v }
  | .D => { l with D := v }
  | .T => { l with T := v }

/-- `XW(ln)` of this instance (rule R5). -/
def State.XW (s : State) (ln : Lane) : Nat := Config.laneWidth s.L ln

/-- `ln.REG`: a register of a lane as a natural (rule R8). -/
def State.rd (s : State) (ln : Lane) (r : Reg) : Nat :=
  match ln with
  | .f => (s.f.get r).toNat
  | .b => s.b.get r

/-- `ln.REG <- v` (rule R8): the register has `XW(ln)` bits and takes that many of `v`. Every rule writes a `v` below
`2^XW(ln)`, so no bit is lost (log entry 2). The other lane is untouched (rule R23). -/
def State.wr (s : State) (ln : Lane) (r : Reg) (v : Nat) : State :=
  match ln with
  | .f => { s with f := s.f.set r (BitVec.ofNat 64 v) }
  | .b => { s with b := s.b.set r (v % 2 ^ s.XW .b) }

/-- `STATUS.BUSY`, derived: `PHASE ≠ IDLE` (rule R29). -/
def State.busy (s : State) : Bool := s.phase != .idle

/-- `LVL <- l`: the counter has `LVLW` bits and takes that many of `l` (rules R5, R25). No rule writes an `l` that does not
fit, so no bit is lost (log entry 12). -/
def State.setLvl (s : State) (l : Nat) : State := { s with lvl := l % 2 ^ Config.lvlW s.L }

/-- `seq <- (P, l, u)` (rule R8). -/
def State.setSeq (s : State) (p : Phase) (l : Nat) (u : Fin 7) : State := { s.setLvl l with phase := p, upc := u }

/-- The three errors of the block (rule R240). -/
inductive BusError where
  | invalidArgument
  | illegalCommand
  | busyViolation
  deriving DecidableEq, Repr

/-- The code `STATUS.ERRCODE` records (rule R240). -/
def BusError.code : BusError → BitVec 4
  | .invalidArgument => 1
  | .illegalCommand => 2
  | .busyViolation => 3

/-- Error entry: `raise E` keeps the first error since the last clear (rules R242, R248). Nothing else changes and
control goes nowhere (rule R241). -/
def raise (e : BusError) (s : State) : State :=
  if s.err then s else { s with err := true, errcode := e.code }

/-- Error return: clearing `ERR` clears `ERRCODE` with it, and nothing is restored (rules R229, R249). -/
def clearError (s : State) : State := { s with err := false, errcode := 0 }

/-- A command write refused while idle: `DONE <- 0; raise E` (rule R221, cases 2 and 3). -/
def refuseCommand (e : BusError) (s : State) : State := raise e { s with done := false }

/-- What every accept does: `CMD <- w; DONE <- 0` (rule R221, case 4). -/
def latchCommand (i : Instr) (s : State) : State := { s with cmd := encode i, done := false }

/-- Accept of a primitive command: `seq <- (EXEC, 0, 0)` (rule R221, case 4). -/
def acceptPrimitive (i : Instr) (s : State) : State := (latchCommand i s).setSeq .exec 0 0

/-- Accept of `FIB` on lane `ln`: `K <- N; seq <- (DESC, 0, 0)` (rules R186, R221). -/
def acceptFib (i : Instr) (ln : Lane) (s : State) : State :=
  ((latchCommand i s).wr ln .K (s.rd ln .N)).setSeq .desc 0 0

/-- The end of every completing micro-step: `DONE <- 1; PHASE <- IDLE` (rules R192, R223). -/
def complete (s : State) : State := { s with done := true, phase := .idle }

/-- `Reset` (rules R270, R271): every piece of the block's state takes its reset value, whatever the core was doing. The
parameter `L` is no state of the block (rule R34) and the host is outside it (rule R10), so both keep what they hold. -/
def resetBlock (s : State) : State :=
  { State.resetWith s.L with program := s.program, schedule := s.schedule, reads := s.reads }

end Sys2Proof.Machine
end

