-- ==== Sys2Proof/Machine/Flags.lean ====
section
/-! DEFINITION. The condition flags (rules R30, R162, R163), the interrupt output (rule R33) and the words `ID`, `CTRL`
and `STATUS` as the bus shows and takes them (rules R28, R31, R32, R225, R229, R230). -/

namespace Sys2Proof.Machine

/-- `GT`: unsigned `X > Y` (rules R163, R166). -/
def gtFlag (x y : Nat) : Bool := decide (x > y)

/-- `EQ`: `X = Y` (rules R163, R166). -/
def eqFlag (x y : Nat) : Bool := decide (x = y)

/-- `EV`: bit 0 of the value is 0 (rules R162, R165). -/
def evFlag (x : Nat) : Bool := !x.testBit 0

/-- A `CMP` writes `GT` and `EQ` together and leaves `EV` (rule R30). -/
def setOrder (gt eq : Bool) (s : State) : State := { s with gt := gt, eq := eq }

/-- An `ISEVEN` writes `EV` and leaves `GT` and `EQ` (rule R30). -/
def setParity (ev : Bool) (s : State) : State := { s with ev := ev }

/-- The interrupt output, a level (rules R33, R250). -/
def State.irq (s : State) : Bool := (s.done && s.ieDone) || (s.err && s.ieErr)

/-- `ID`: "FFIB", reserved 0, version 1, `L` (rule R32). -/
def idWord (s : State) : Word := 0x46464942#32 ++ 0#8 ++ 1#8 ++ BitVec.ofNat 16 s.L

/-- `CTRL` as read (rules R31, R225). -/
def ctrlWord (s : State) : Word := 0#62 ++ BitVec.ofBool s.ieErr ++ BitVec.ofBool s.ieDone

/-- `STATUS` as read: `{0[52:0], EV, EQ, GT, ERRCODE[3:0], 0, ERR, DONE, BUSY}` (rules R28, R225). -/
def statusWord (s : State) : Word :=
  0#53 ++ BitVec.ofBool s.ev ++ BitVec.ofBool s.eq ++ BitVec.ofBool s.gt ++ s.errcode ++ 0#1 ++
    BitVec.ofBool s.err ++ BitVec.ofBool s.done ++ BitVec.ofBool s.busy

/-- A write of `v` to `CTRL` (rule R230). -/
def writeCtrl (v : Word) (s : State) : State := { s with ieDone := v.getLsbD 0, ieErr := v.getLsbD 1 }

/-- The `DONE` half of a write to `STATUS` (rule R229). -/
def ackDone (v : Word) (s : State) : State := if v.getLsbD 1 then { s with done := false } else s

/-- The `ERR` half of a write to `STATUS` (rule R229). -/
def ackErr (v : Word) (s : State) : State := if v.getLsbD 2 then clearError s else s

/-- A write of `v` to `STATUS`: write one to clear `DONE` and `ERR`, every other bit ignored (rule R229). -/
def writeStatus (v : Word) (s : State) : State := ackErr v (ackDone v s)

end Sys2Proof.Machine
end

