-- ==== Sys2Proof/Machine/Multiplier.lean ====
section
/-! DEFINITION. The two multiplier units behind the backend port (rule R97): `MM64`, computed in the 128-bit domain and
narrowed (rules R120 to R126, R161 to R163), and `MMW`, computed on exact naturals (rules R140 to R146, R164 to R166). -/

namespace Sys2Proof.Machine

/-- The operation codes 1 to 8 of the backend port (rules R91, R97). -/
inductive BeOp where
  | mulmod
  | addmod
  | submod
  | dblmod
  | reduce
  | halve
  | iseven
  | cmp
  deriving DecidableEq, Repr

/-- `be_op` (rules R91, R97). -/
def BeOp.code : BeOp → BitVec 4
  | .mulmod => 1
  | .addmod => 2
  | .submod => 3
  | .dblmod => 4
  | .reduce => 5
  | .halve => 6
  | .iseven => 7
  | .cmp => 8

/-- The codes whose result is taken modulo `be_m` (rules R12, R91). -/
def BeOp.reducing : BeOp → Bool
  | .mulmod | .addmod | .submod | .dblmod | .reduce => true
  | .halve | .iseven | .cmp => false

/-- A unit's answer: `be_r`, or `be_gt` and `be_eq`, or `be_ev`, as the code asks (rule R97). -/
inductive BeAnswer where
  | value (r : Nat)
  | order (gt eq : Bool)
  | parity (ev : Bool)
  deriving DecidableEq, Repr

/-- `zext_128` of a lane-F word (rules R7, R120). -/
def zext128 (x : Word) : BitVec 128 := x.setWidth 128

/-- Safe reduction: reduce in the 128-bit domain, only then narrow (rules R120, R121). -/
def narrowMod (v : BitVec 128) (m : Word) : Word := (v % zext128 m).setWidth 64

/-- `MULMOD` of `MM64` (rule R122). -/
def mm64Mulmod (x y m : Word) : Word := narrowMod (zext128 x * zext128 y) m

/-- `ADDMOD` of `MM64` (rule R123). -/
def mm64Addmod (x y m : Word) : Word := narrowMod (zext128 x + zext128 y) m

/-- `SUBMOD` of `MM64` (rule R124): `m` is added before the larger subtrahend is taken away. -/
def mm64Submod (x y m : Word) : Word :=
  let x' := zext128 x % zext128 m
  let y' := zext128 y % zext128 m
  (if y' > x' then x' + zext128 m - y' else x' - y').setWidth 64

/-- `DBLMOD` of `MM64` (rule R125). -/
def mm64Dblmod (x m : Word) : Word := narrowMod (zext128 x + zext128 x) m

/-- `REDUCE` of `MM64` (rule R126). -/
def mm64Reduce (x m : Word) : Word := narrowMod (zext128 x) m

/-- `HALVE` of `MM64` (rule R161). -/
def mm64Halve (x : Word) : Word := x >>> 1

/-- `MULMOD` of `MMW` (rule R142). -/
def mmwMulmod (x y m : Nat) : Nat := x * y % m

/-- `ADDMOD` of `MMW` (rule R143). -/
def mmwAddmod (x y m : Nat) : Nat := (x + y) % m

/-- `SUBMOD` of `MMW` (rule R144). -/
def mmwSubmod (x y m : Nat) : Nat :=
  let x' := x % m
  let y' := y % m
  if y' > x' then x' + m - y' else x' - y'

/-- `DBLMOD` of `MMW` (rule R145). -/
def mmwDblmod (x m : Nat) : Nat := 2 * x % m

/-- `REDUCE` of `MMW` (rule R146). -/
def mmwReduce (x m : Nat) : Nat := x % m

/-- `HALVE` of `MMW` (rule R164). -/
def mmwHalve (x : Nat) : Nat := x >>> 1

/-- What `MM64` answers when `be_m` is not 0 where the code reduces (rule R97). -/
def mm64 (op : BeOp) (x y m : Word) : BeAnswer :=
  match op with
  | .mulmod => .value (mm64Mulmod x y m).toNat
  | .addmod => .value (mm64Addmod x y m).toNat
  | .submod => .value (mm64Submod x y m).toNat
  | .dblmod => .value (mm64Dblmod x m).toNat
  | .reduce => .value (mm64Reduce x m).toNat
  | .halve => .value (mm64Halve x).toNat
  | .iseven => .parity (evFlag x.toNat)
  | .cmp => .order (gtFlag x.toNat y.toNat) (eqFlag x.toNat y.toNat)

/-- What `MMW` answers when `be_m` is not 0 where the code reduces (rule R97). -/
def mmw (op : BeOp) (x y m : Nat) : BeAnswer :=
  match op with
  | .mulmod => .value (mmwMulmod x y m)
  | .addmod => .value (mmwAddmod x y m)
  | .submod => .value (mmwSubmod x y m)
  | .dblmod => .value (mmwDblmod x m)
  | .reduce => .value (mmwReduce x m)
  | .halve => .value (mmwHalve x)
  | .iseven => .parity (evFlag x)
  | .cmp => .order (gtFlag x y) (eqFlag x y)

/-- The backend port of a lane (rule R97): a function of the operands presented, with no state. A reducing code with
modulus 0 has no answer (rule R98, U1). -/
def backend (ln : Lane) (op : BeOp) (a b m : Nat) : Option BeAnswer :=
  if op.reducing && m == 0 then none
  else
    match ln with
    | .f => some (mm64 op (BitVec.ofNat 64 a) (BitVec.ofNat 64 b) (BitVec.ofNat 64 m))
    | .b => some (mmw op a b m)

/-- A backend operation that the controller uses for its value `be_r` (rules R97, R189). -/
def backendValue (ln : Lane) (op : BeOp) (a b m : Nat) : Option Nat :=
  match backend ln op a b m with
  | some (.value r) => some r
  | some (.order _ _) => none
  | some (.parity _) => none
  | none => none

/-- A unit's answer to a primitive host command goes to `ln.R` or to the flags (rule R97). -/
def routeAnswer (ln : Lane) (ans : BeAnswer) (s : State) : State :=
  match ans with
  | .value r => s.wr ln .R r
  | .order gt eq => setOrder gt eq s
  | .parity ev => setParity ev s

end Sys2Proof.Machine
end

