-- ==== Sys2Proof/Machine/Command.lean ====
section
/-! DEFINITION. The life every command shares (rules R221 to R223). The meaning of a command is its NEXT ATOMIC ACTION: from
`IDLE`, its issue (the modulus test, then accept or refusal); in flight, its enabled micro-step (log entry 8). -/

namespace Sys2Proof.Machine

/-- Cases 3 and 4 of a `CMD` write (rule R221): a reducing command whose lane's modulus is 0 is refused with
`InvalidArgument` (rule R243), any other is accepted as `accept` says. -/
def issueChecked (i : Instr) (ln : Lane) (accept : State → State) (s : State) : State :=
  if i.reducing && s.rd ln .M == 0 then refuseCommand .invalidArgument s else accept s

/-- The micro-step of phase `EXEC` (rule R223): present `X, Y, M` to the lane's unit, route the answer, complete. -/
def execMicroStep (ln : Lane) (op : BeOp) (s : State) : Result :=
  match backend ln op (s.rd ln .X) (s.rd ln .Y) (s.rd ln .M) with
  | some ans => .next (complete (routeAnswer ln ans s))
  | none => .fault .backendModulusZero

/-- A primitive command, codes 1 to 8 (rules R221, R223). It has no micro-step in the phases of `FIB` (rule R36 (f)). -/
def primitiveCommand (i : Instr) (ln : Lane) (op : BeOp) (s : State) : Result :=
  match s.phase with
  | .idle => .next (issueChecked i ln (acceptPrimitive i) s)
  | .exec => execMicroStep ln op s
  | .desc | .base | .asc | .fin => .fault .sequencing

end Sys2Proof.Machine
end

