-- ==== Sys2Proof/Machine/Fib.lean ====
section
/-! DEFINITION. The Fibonacci doubler (rules R185 to R192): one controller for both lanes (rule R198), which halves a copy
of the index down to 0 (`DESC`), loads the base pair (`BASE`), climbs one level a bit of the index (`ASC`) and writes the
result (`FIN`), driving the lane's multiplier through the backend port. -/

namespace Sys2Proof.Machine

/-- One backend operation of the controller on working registers, with modulus `ln.M`, into a working register
(rules R97, R189). -/
def backendInto (ln : Lane) (op : BeOp) (a b : Nat) (dst : Reg) (s : State) : Option State :=
  (backendValue ln op a b (s.rd ln .M)).map (fun r => s.wr ln dst r)

/-- Go on from a backend operation; a reducing code presented with modulus 0 has no answer (rule R98, U1). -/
def afterBackend (r : Option State) (g : State → State) : Result :=
  match r with
  | some s => .next (g s)
  | none => .fault .backendModulusZero

/-- The micro-step of phase `DESC` (rule R187). -/
def fibDesc (ln : Lane) (s : State) : Result :=
  if s.rd ln .K ≠ 0 then
    afterBackend (backendInto ln .halve (s.rd ln .K) 0 .K s) (fun t => t.setLvl (t.lvl + 1))
  else .next { s with phase := .base }

/-- The micro-step of phase `BASE` (rule R188): `A <- 0`, `B <- 1 mod M`. -/
def fibBase (ln : Lane) (s : State) : Result :=
  afterBackend (backendInto ln .reduce 1 0 .B (s.wr ln .A 0))
    (fun t => { t with upc := 0, phase := if t.lvl = 0 then .fin else .asc })

/-- One row of the micro-program: backend operation, `be_a`, `be_b`, destination (rule R189). -/
structure MicroOp where
  op  : BeOp
  a   : Reg
  b   : Reg
  dst : Reg
  deriving DecidableEq, Repr

/-- The micro-program of one level, `UPC` 0 to 5 (rule R189); `DBLMOD` ignores `be_b`. -/
def microProgram : Fin 7 → Option MicroOp
  | 0 => some { op := .dblmod, a := .B, b := .B, dst := .T }
  | 1 => some { op := .submod, a := .T, b := .A, dst := .T }
  | 2 => some { op := .mulmod, a := .A, b := .T, dst := .C }
  | 3 => some { op := .mulmod, a := .A, b := .A, dst := .T }
  | 4 => some { op := .mulmod, a := .B, b := .B, dst := .D }
  | 5 => some { op := .addmod, a := .T, b := .D, dst := .D }
  | 6 => none

/-- The end of micro-step 6: one level less, `UPC <- 0`, and `FIN` when no level is left, tested on the new `LVL`
(rule R190). -/
def nextLevel (s : State) : State :=
  let t := s.setLvl (s.lvl - 1)
  { t with upc := 0, phase := if t.lvl = 0 then .fin else .asc }

/-- Micro-step 6 of phase `ASC` (rule R190): bit `LVL - 1` of the index selects the new pair, from the old `C` and `D`.
It never runs with `LVL = 0`. -/
def fibSelect (ln : Lane) (s : State) : Result :=
  if s.lvl = 0 then .fault .sequencing
  else if (s.rd ln .N).testBit (s.lvl - 1) then
    afterBackend (backendInto ln .addmod (s.rd ln .C) (s.rd ln .D) .B (s.wr ln .A (s.rd ln .D))) nextLevel
  else .next (nextLevel ((s.wr ln .A (s.rd ln .C)).wr ln .B (s.rd ln .D)))

/-- The micro-step of phase `ASC` that `UPC` selects (rules R189, R190). -/
def fibAsc (ln : Lane) (s : State) : Result :=
  match microProgram s.upc with
  | some m =>
    afterBackend (backendInto ln m.op (s.rd ln m.a) (s.rd ln m.b) m.dst s) (fun t => { t with upc := t.upc + 1 })
  | none => fibSelect ln s

/-- The micro-step of phase `FIN` (rule R192): `R <- A`, all limbs, and complete. -/
def fibFin (ln : Lane) (s : State) : State := complete (s.wr ln .R (s.rd ln .A))

/-- `FIB` on a lane (rules R186 to R192, R221). It has no micro-step in `EXEC` (rule R36 (f)). -/
def fibCommand (i : Instr) (ln : Lane) (s : State) : Result :=
  match s.phase with
  | .idle => .next (issueChecked i ln (acceptFib i ln) s)
  | .exec => .fault .sequencing
  | .desc => fibDesc ln s
  | .base => fibBase ln s
  | .asc => fibAsc ln s
  | .fin => .next (fibFin ln s)

/-- `FIB.F` (rule R181): at completion `F.R = F(F.N) mod F.M`. -/
def execFibF (s : State) : Result := fibCommand .fibF .f s

/-- `FIB.B` (rule R182): at completion `B.R = F(B.N) mod B.M`. -/
def execFibB (s : State) : Result := fibCommand .fibB .b s

end Sys2Proof.Machine
end

