-- ==== Sys2Proof/Machine/IndexOps.lean ====
section
/-! DEFINITION. The index operations of both lanes (rules R161 to R166). None reads the modulus, so none is ever refused for it
(rule R160). -/

namespace Sys2Proof.Machine

/-- `HALVE.F` (rule R161): `F.R <- F.X >> 1`. -/
def execHalveF (s : State) : Result := primitiveCommand .halveF .f .halve s

/-- `ISEVEN.F` (rule R162): `EV <- (F.X[0] == 0)`. -/
def execIsevenF (s : State) : Result := primitiveCommand .isevenF .f .iseven s

/-- `CMP.F` (rule R163): `GT <- F.X > F.Y`, `EQ <- F.X == F.Y`, unsigned. -/
def execCmpF (s : State) : Result := primitiveCommand .cmpF .f .cmp s

/-- `HALVE.B` (rule R164): `B.R <- B.X >> 1` over the whole value. -/
def execHalveB (s : State) : Result := primitiveCommand .halveB .b .halve s

/-- `ISEVEN.B` (rule R165): `EV <- (B.X[0] == 0)`. -/
def execIsevenB (s : State) : Result := primitiveCommand .isevenB .b .iseven s

/-- `CMP.B` (rule R166): `GT <- B.X > B.Y`, `EQ <- B.X == B.Y`, whole values. -/
def execCmpB (s : State) : Result := primitiveCommand .cmpB .b .cmp s

end Sys2Proof.Machine
end

