-- ==== Sys2Proof/Machine/ModArith.lean ====
section
/-! DEFINITION. The five reducing primitive operations of both lanes (rules R122 to R126, R142 to R146). Each is refused at issue when
its lane's modulus is 0 and takes one micro-step after accept. -/

namespace Sys2Proof.Machine

/-- `MULMOD.F` (rule R122): `F.R <- F.X * F.Y mod F.M`. -/
def execMulmodF (s : State) : Result := primitiveCommand .mulmodF .f .mulmod s

/-- `ADDMOD.F` (rule R123): `F.R <- (F.X + F.Y) mod F.M`. -/
def execAddmodF (s : State) : Result := primitiveCommand .addmodF .f .addmod s

/-- `SUBMOD.F` (rule R124): `F.R <- (F.X - F.Y) mod F.M`, never negative. -/
def execSubmodF (s : State) : Result := primitiveCommand .submodF .f .submod s

/-- `DBLMOD.F` (rule R125): `F.R <- 2 * F.X mod F.M`. -/
def execDblmodF (s : State) : Result := primitiveCommand .dblmodF .f .dblmod s

/-- `REDUCE.F` (rule R126): `F.R <- F.X mod F.M`. -/
def execReduceF (s : State) : Result := primitiveCommand .reduceF .f .reduce s

/-- `MULMOD.B` (rule R142): `B.R <- B.X * B.Y mod B.M`, all limbs. -/
def execMulmodB (s : State) : Result := primitiveCommand .mulmodB .b .mulmod s

/-- `ADDMOD.B` (rule R143): `B.R <- (B.X + B.Y) mod B.M`, all limbs. -/
def execAddmodB (s : State) : Result := primitiveCommand .addmodB .b .addmod s

/-- `SUBMOD.B` (rule R144): `B.R <- (B.X - B.Y) mod B.M`, never negative, all limbs. -/
def execSubmodB (s : State) : Result := primitiveCommand .submodB .b .submod s

/-- `DBLMOD.B` (rule R145): `B.R <- 2 * B.X mod B.M`, all limbs. -/
def execDblmodB (s : State) : Result := primitiveCommand .dblmodB .b .dblmod s

/-- `REDUCE.B` (rule R146): `B.R <- B.X mod B.M`, all limbs. -/
def execReduceB (s : State) : Result := primitiveCommand .reduceB .b .reduce s

end Sys2Proof.Machine
end

