-- ==== Sys2Proof/Machine/System.lean ====
section
/-! DEFINITION. `NOP` (rule R220). -/

namespace Sys2Proof.Machine

/-- `NOP` (rules R220, R223): accepted whatever the moduli hold; its micro-step writes `DONE` and nothing else. -/
def execNop (s : State) : Result :=
  match s.phase with
  | .idle => .next (acceptPrimitive .nop s)
  | .exec => .next (complete s)
  | .desc | .base | .asc | .fin => .fault .sequencing

end Sys2Proof.Machine
end

