-- ==== Sys2Proof/Machine/Dispatch.lean ====
section
/-! DEFINITION. The one dispatch: an instruction's meaning (rules R221, R223; log entry 8). -/

namespace Sys2Proof.Machine

def exec (i : Instr) (s : State) : Host.Outcome State Fault Refusal :=
  match i with
  | .nop => Sys2Proof.Machine.execNop s
  | .mulmodF => Sys2Proof.Machine.execMulmodF s
  | .addmodF => Sys2Proof.Machine.execAddmodF s
  | .submodF => Sys2Proof.Machine.execSubmodF s
  | .dblmodF => Sys2Proof.Machine.execDblmodF s
  | .reduceF => Sys2Proof.Machine.execReduceF s
  | .halveF => Sys2Proof.Machine.execHalveF s
  | .isevenF => Sys2Proof.Machine.execIsevenF s
  | .cmpF => Sys2Proof.Machine.execCmpF s
  | .fibF => Sys2Proof.Machine.execFibF s
  | .mulmodB => Sys2Proof.Machine.execMulmodB s
  | .addmodB => Sys2Proof.Machine.execAddmodB s
  | .submodB => Sys2Proof.Machine.execSubmodB s
  | .dblmodB => Sys2Proof.Machine.execDblmodB s
  | .reduceB => Sys2Proof.Machine.execReduceB s
  | .halveB => Sys2Proof.Machine.execHalveB s
  | .isevenB => Sys2Proof.Machine.execIsevenB s
  | .cmpB => Sys2Proof.Machine.execCmpB s
  | .fibB => Sys2Proof.Machine.execFibB s

end Sys2Proof.Machine
end

