-- ==== Sys2Proof/Machine/Operands.lean ====
section
/-! DEFINITION. Operand forms: which word address names which register (rule R61), the limbs of a register
(rules R22, R62, R228), and which registers the host may write (rules R21, R22, R66). -/

namespace Sys2Proof.Machine

/-- What a word address names (rule R61). A lane-F register is one word, its limb 0. -/
inductive Target where
  | id
  | ctrl
  | status
  | cmd
  | lane (ln : Lane) (r : Reg) (limb : Nat)
  | reserved
  deriving DecidableEq, Repr

/-- The register of a lane-F address `0x010 + k` (rule R61). -/
def regOfIndex : Nat → Option Reg
  | 0 => some .N
  | 1 => some .M
  | 2 => some .X
  | 3 => some .Y
  | 4 => some .R
  | _ => none

/-- The place of a host-visible register in the order of rule R61; working registers have no address (rule R26). -/
def indexOfReg : Reg → Option Nat
  | .N => some 0
  | .M => some 1
  | .X => some 2
  | .Y => some 3
  | .R => some 4
  | .K | .A | .B | .C | .D | .T => none

/-- The lane-F part of the map: `0x010` to `0x014` (rule R61). -/
def targetF (a : Nat) : Target :=
  if a < 16 then .reserved
  else
    match regOfIndex (a - 16) with
    | some r => .lane .f r 0
    | none => .reserved

/-- The lane-B part of the map: the five windows of 256 words from `0x100`, of which the first `L` words of each are
mapped (rule R61). -/
def targetB (L a : Nat) : Target :=
  match regOfIndex (a / 256 - 1) with
  | some r => if a % 256 < L then .lane .b r (a % 256) else .reserved
  | none => .reserved

/-- What a word address names in an instance with `L` limbs (rule R61). -/
def targetOf (L : Nat) (addr : Addr) : Target :=
  match addr.toNat with
  | 0 => .id
  | 1 => .ctrl
  | 2 => .status
  | 3 => .cmd
  | a => if a < 256 then targetF a else targetB L a

/-- Limb `i` of a value: bits `64·i + 63 : 64·i` (rules R62, R225). -/
def limb (v i : Nat) : Word := BitVec.ofNat 64 (v / 2 ^ (64 * i))

/-- A value with limb `i` replaced: `v − limb_i·2^(64·i) + w·2^(64·i)` (rule R228). -/
def setLimb (v i : Nat) (w : Word) : Nat := v - (limb v i).toNat * 2 ^ (64 * i) + w.toNat * 2 ^ (64 * i)

/-- Whether the host may write the register: `N, M, X, Y`, not `R` (rules R21, R22). -/
def Reg.hostWritable : Reg → Bool
  | .N | .M | .X | .Y => true
  | .R | .K | .A | .B | .C | .D | .T => false

/-- The address of limb `i` of a register, where it has one (rule R61). -/
def addrOf (ln : Lane) (r : Reg) (i : Nat) : Option Addr :=
  match indexOfReg r with
  | none => none
  | some k =>
    match ln with
    | .f => some (BitVec.ofNat 12 (16 + k))
    | .b => some (BitVec.ofNat 12 (256 * (k + 1) + i))

end Sys2Proof.Machine
end

