-- ==== Sys2Proof/Machine/Bus.lean ====
section
/-! DEFINITION. The register bus (rules R60 to R72, R96): the two accesses `BusRead` (rule R225) and `BusWrite` (rules R226
to R230), the issue of a command (rule R221), the core's micro-step (rule R224), and one clock cycle of the ports (rules
R96, R224, R270 to R272). -/

namespace Sys2Proof.Machine

/-- The word a target reads as (rule R225). -/
def readTarget (s : State) : Target → Word
  | .id => idWord s
  | .ctrl => ctrlWord s
  | .status => statusWord s
  | .cmd => s.cmd
  | .lane ln r i => limb (s.rd ln r) i
  | .reserved => 0

/-- `BusRead(addr)` (rule R225): a function of the state, which it does not change (rule R64). -/
def busRead (s : State) (addr : Addr) : Word := readTarget s (targetOf s.L addr)

/-- A write of word `w` to `CMD` (rule R221): busy, illegal word, zero modulus, accept, in that order. The last two are
the command's own meaning from `IDLE`. -/
def issueCommand (w : Word) (s : State) : Result :=
  if s.busy then .next (raise .busyViolation s)
  else
    match decode w with
    | .error _ => .next (refuseCommand .illegalCommand s)
    | .ok i => exec i s

/-- An operand write: dropped with `BusyViolation` while busy (rule R227), else the addressed word is replaced
(rule R228). -/
def writeOperand (ln : Lane) (r : Reg) (i : Nat) (v : Word) (s : State) : State :=
  if s.busy then raise .busyViolation s else s.wr ln r (setLimb (s.rd ln r) i v)

/-- A write to a target (rule R226). -/
def writeTarget (t : Target) (v : Word) (s : State) : Result :=
  match t with
  | .id => .next s
  | .ctrl => .next (writeCtrl v s)
  | .status => .next (writeStatus v s)
  | .cmd => issueCommand v s
  | .lane ln r i => .next (if r.hostWritable then writeOperand ln r i v s else s)
  | .reserved => .next s

/-- `BusWrite(addr, v)` (rule R226). -/
def busWrite (addr : Addr) (v : Word) (s : State) : Result := writeTarget (targetOf s.L addr) v s

/-- One core micro-step (rule R224): a busy core reads `CMD` to know its command (rule R27) and takes that command's
enabled micro-step; an idle core has none. -/
def microStep (s : State) : Result :=
  if s.busy then
    match decode s.cmd with
    | .ok i => exec i s
    | .error _ => .fault .latchedCommandIllegal
  else .next s

/-- The input ports of one clock cycle (rule R96). -/
structure Pins where
  rst       : Bool
  bus_en    : Bool
  bus_we    : Bool
  bus_addr  : Addr
  bus_wdata : Word
  deriving DecidableEq, Repr

/-- The write half of an access: what the bus does to the state at the clock edge (rule R96). -/
def busEdge (p : Pins) (s : State) : Result :=
  if p.bus_en && p.bus_we then busWrite p.bus_addr p.bus_wdata s else .next s

/-- `bus_rdata` in the cycle, from the state before the edge: 0 under reset (rule R272) and without an access, the word
read in a read access (rule R96); in a write access the spec gives it no value (log entry 11). -/
def busRdata (p : Pins) (s : State) : Option Word :=
  if p.rst || !p.bus_en then some 0 else if p.bus_we then none else some (busRead s p.bus_addr)

/-- One rising clock edge (rules R96, R224, R270, R272): reset before everything; else the access, and after it, if `tick`
says that the core's micro-step takes effect at this edge, the micro-step that was enabled before the access. -/
def clockEdge (p : Pins) (tick : Bool) (s : State) : Result :=
  if p.rst then .next (resetBlock s)
  else if tick && s.busy then andThen (busEdge p s) microStep
  else busEdge p s

end Sys2Proof.Machine
end

