-- ==== Sys2Proof/Machine/HostAgent.lean ====
section
/-! DEFINITION. The host, the block's other agent (rule R10): what it drives on the ports for its next access, what it
learns from a read, and when `WAIT` ends (rules R100, R101); and the choice of what the next clock cycle holds
(rules R224, R233; log entry 4). -/

namespace Sys2Proof.Machine

/-- `addr(STATUS)` (rule R61). -/
def statusAddr : Addr := 2

/-- `addr(CMD)` (rule R61). -/
def cmdAddr : Addr := 3

/-- The ports in a cycle without an access (rule R96). -/
def quietPins (rst : Bool) : Pins := { rst := rst, bus_en := false, bus_we := false, bus_addr := 0, bus_wdata := 0 }

/-- The ports while the host presents an access (rules R96, R100, R101). -/
def accessPins (rst : Bool) : HostAccess → Pins
  | .write a v => { rst := rst, bus_en := true, bus_we := true, bus_addr := a, bus_wdata := v }
  | .read a => { rst := rst, bus_en := true, bus_we := false, bus_addr := a, bus_wdata := 0 }
  | .wait => { rst := rst, bus_en := true, bus_we := false, bus_addr := statusAddr, bus_wdata := 0 }

/-- The access the host presents in a turn, if it presents one and has one left. -/
def presented (t : Turn) (s : State) : Option HostAccess := if t.host then s.program.head? else none

/-- The ports of a turn (rule R96). -/
def turnPins (t : Turn) (s : State) : Pins :=
  match presented t s with
  | some a => accessPins t.rst a
  | none => quietPins t.rst

/-- Whether the host goes on to its next access: always, but for a `WAIT` whose `STATUS` word has bit 0 = 1
(rule R101). -/
def accessEnds (a : HostAccess) (rdata : Option Word) : Bool :=
  match a with
  | .write _ _ | .read _ => true
  | .wait =>
    match rdata with
    | some w => !w.getLsbD 0
    | none => true

/-- The host's record of a read access (rule R233). -/
def readRecord (p : Pins) (rdata : Option Word) : List ReadRecord :=
  if p.bus_en && !p.bus_we then
    match rdata with
    | some w => [{ addr := p.bus_addr, value := w }]
    | none => []
  else []

/-- The host after the cycle: its read recorded, its access done with when it ends. Nothing of the block changes. -/
def hostAfter (t : Turn) (s : State) : State :=
  match presented t s with
  | some a =>
    let p := turnPins t s
    let d := busRdata p s
    { s with
      program := if accessEnds a d then s.program.tail else s.program
      reads := readRecord p d ++ s.reads }
  | none => s

/-- One clock cycle as the turn says: the host's side, then the block's clock edge, both from the state before it. -/
def runTurn (t : Turn) (s : State) : Result := clockEdge (turnPins t s) t.tick (hostAfter t s)

/-- The cycle the model takes when no interleaving is fixed: a busy core steps alone (rule R233), an idle one leaves the
cycle to the host. DESIGN CHOICE, log entry 4. -/
def defaultTurn (s : State) : Turn := { rst := false, host := !s.busy, tick := s.busy }

/-- The next turn, and the state without it. -/
def nextTurn (s : State) : Turn × State :=
  match s.schedule with
  | t :: ts => (t, { s with schedule := ts })
  | [] => (defaultTurn s, s)

/-- The state in which the very next step is the host's write of `w` to `CMD` on an idle core (log entry 10). -/
def placeCommand (w : Word) (s : State) : State :=
  { s with
    phase := .idle
    program := .write cmdAddr w :: s.program
    schedule := { rst := false, host := true, tick := false } :: s.schedule }

end Sys2Proof.Machine
end

