-- ==== Sys2Proof/Machine/Step.lean ====
section
/-! DEFINITION. One step of the machine: one clock cycle of the block and its host (rules R10, R96, R224). A command comes
to the core only through a write to `CMD` (rule R70). -/

namespace Sys2Proof.Machine

/-- One step: the next turn of the interleaving, run. -/
def step (s : State) : Host.Outcome State Fault Refusal := runTurn (nextTurn s).1 (nextTurn s).2

/-- The state in which the next step issues the command word `w` (log entry 10). -/
def State.withFetchWord (s : State) (_nbits w : Nat) : State := placeCommand (BitVec.ofNat 64 w) s

end Sys2Proof.Machine
end

