-- ==== Sys2Proof/Machine/Contract.lean ====
section
/-! DEFINITION. The contract of `FIB` as the source states it (rules R7, R9, R180): the length of an index, the doubling of
a pair, the pair recursion, and F(n) mod m. Defined for `m ≥ 1` only (U1): a claim about them carries that hypothesis. -/

namespace Sys2Proof.Machine

/-- `bitlen(x)` (rule R7). -/
def bitlen (x : Nat) : Nat := if x = 0 then 0 else Nat.log2 x + 1

/-- `fib_mod(n, m)` = F(n) mod m (rule R9). -/
def fibMod (n m : Nat) : Nat := Nat.fib n % m

/-- One return of the recursion: P(k) from P(k2), `odd` the parity of k (rule R180). -/
def doublePair (m : Nat) (odd : Bool) (p : Nat × Nat) : Nat × Nat :=
  let t := 2 * p.2 % m
  let u := if p.1 > t then t + m - p.1 else t - p.1
  let c := p.1 * u % m
  let d := (p.1 * p.1 % m + p.2 * p.2 % m) % m
  if odd then (d, (c + d) % m) else (c, d)

/-- The recursion with at most `fuel` halvings (rule R180). -/
def pairWithin (m : Nat) : Nat → Nat → Nat × Nat
  | 0, _ => (0 % m, 1 % m)
  | fuel + 1, k => if k = 0 then (0 % m, 1 % m) else doublePair m (k.testBit 0) (pairWithin m fuel (k / 2))

/-- P(k) (rule R180). Halving a `k` of `bitlen k` bits that often reaches 0. -/
def fibPair (m k : Nat) : Nat × Nat := pairWithin m (bitlen k) k

end Sys2Proof.Machine
end

