-- ==== Sys2Proof/Machine/HostProgram.lean ====
section
/-! DEFINITION. The host's way of writing programs (rules R100 to R102): the lines and pseudo-operations, which of them are
well formed, the bus accesses each stands for, and the source's two functions as programs. -/

namespace Sys2Proof.Machine

/-- A register as a line names it (rules R61, R100): by name, with a limb number (0 on lane F), or by a bare address. -/
inductive RegName where
  | id
  | ctrl
  | status
  | cmd
  | lane (ln : Lane) (r : Reg) (limb : Nat)
  | raw (addr : Addr)
  deriving DecidableEq, Repr

/-- One line of a host program (rules R100, R101). -/
inductive HostLine where
  /-- `WR reg, value`. -/
  | wr (reg : RegName) (v : Word)
  /-- `RD reg`. -/
  | rd (reg : RegName)
  /-- `CMD mnemonic`. -/
  | cmd (i : Instr)
  /-- `WAIT`. -/
  | wait
  /-- `CLR DONE`. -/
  | clrDone
  /-- `CLR ERR`. -/
  | clrErr
  /-- `CLR DONE, ERR`. -/
  | clrBoth
  /-- `LDB reg, v`: all limbs of a lane-B register. -/
  | ldb (r : Reg) (v : Nat)
  /-- `RDB reg`. -/
  | rdb (r : Reg)
  /-- `IRQEN mask`. -/
  | irqen (mask : Word)
  deriving DecidableEq, Repr

/-- A named register exists in an instance with `L` limbs: a host-visible one, limb 0 on lane F, a limb below `L` on
lane B (rules R22, R26, R61). -/
def RegName.wf (L : Nat) : RegName → Bool
  | .id | .ctrl | .status | .cmd | .raw _ => true
  | .lane .f r i => (indexOfReg r).isSome && i == 0
  | .lane .b r i => (indexOfReg r).isSome && decide (i < L)

/-- A line is well formed: its register exists, and the value of `LDB` fits in `W` bits (rule R101). DESIGN CHOICE, log
entry 17: `LDB` of the read-only register `B.R` is not well formed; rule R101 says only "a lane-B register". -/
def HostLine.wf (L : Nat) : HostLine → Bool
  | .wr reg _ | .rd reg => reg.wf L
  | .cmd _ | .wait | .clrDone | .clrErr | .clrBoth | .irqen _ => true
  | .ldb r v => r.hostWritable && decide (v < 2 ^ Config.widthB L)
  | .rdb r => (indexOfReg r).isSome

/-- `addr(reg)` (rules R61, R100); a register without an address has none, and its line no access. -/
def RegName.addr : RegName → Option Addr
  | .id => some 0
  | .ctrl => some 1
  | .status => some statusAddr
  | .cmd => some cmdAddr
  | .lane ln r i => addrOf ln r i
  | .raw a => some a

/-- The accesses that a register's address gives rise to. -/
def accessAt (a : Option Addr) (g : Addr → HostAccess) : List HostAccess :=
  match a with
  | some x => [g x]
  | none => []

/-- `WR reg[i], v[64·i+63 : 64·i]` for one limb (rule R101). -/
def writeLimb (r : Reg) (v i : Nat) : List HostAccess := accessAt (addrOf .b r i) (fun a => .write a (limb v i))

/-- `RD reg[i]` for one limb (rule R101). -/
def readLimb (r : Reg) (i : Nat) : List HostAccess := accessAt (addrOf .b r i) .read

/-- The accesses a line stands for, in an instance with `L` limbs (rules R100, R101). -/
def HostLine.expand (L : Nat) : HostLine → List HostAccess
  | .wr reg v => accessAt reg.addr (fun a => .write a v)
  | .rd reg => accessAt reg.addr .read
  | .cmd i => [.write cmdAddr (encode i)]
  | .wait => [.wait]
  | .clrDone => [.write statusAddr 2]
  | .clrErr => [.write statusAddr 4]
  | .clrBoth => [.write statusAddr 6]
  | .ldb r v => (List.range L).flatMap (writeLimb r v)
  | .rdb r => (List.range L).flatMap (readLimb r)
  | .irqen mask => [.write 1 mask]

/-- The accesses of a program, line by line. -/
def expandAll (L : Nat) (lines : List HostLine) : List HostAccess := lines.flatMap (HostLine.expand L)

/-- `fixed_fib_mod(n, m)` as a host program (rule R102). -/
def fixedFibMod (n m : Word) : List HostLine :=
  [.wr (.lane .f .N 0) n, .wr (.lane .f .M 0) m, .cmd .fibF, .wait, .rd (.lane .f .R 0)]

/-- `bigint_fib_mod(n, m)` as a host program (rule R102). -/
def bigintFibMod (n m : Nat) : List HostLine :=
  [.ldb .N n, .ldb .M m, .cmd .fibB, .wait, .rdb .R]

/-- Perform the writes of a list of accesses one after the other, with no micro-step between them. -/
def performWrites : List HostAccess → State → Result
  | [], s => .next s
  | .write a v :: rest, s => andThen (busWrite a v s) (performWrites rest)
  | .read _ :: rest, s => performWrites rest s
  | .wait :: rest, s => performWrites rest s

/-- `Σ word_i · 2^(64·i)`: the value of the words read from limb 0 up (rules R22, R101). -/
def valueOfLimbs : List Word → Nat
  | [] => 0
  | w :: ws => w.toNat + 2 ^ 64 * valueOfLimbs ws

end Sys2Proof.Machine
end

