-- ==== Sys2Proof/Safety.lean ====
section
/-! DEFINITION. The terms the claims use: the invariants of rule R36 and what makes them inductive, a running `FIB`
(rule R191), an error as the spec records it (rule R242), and schedules (rule R224). -/

namespace Sys2Proof.Safety

open Sys2Proof.Machine

/-- `L` is in range and every lane-B register fits in `W` bits (rules R5, R140). -/
structure Capacity (s : State) : Prop where
  one_le : 1 ≤ s.L
  le_256 : s.L ≤ 256
  fits   : ∀ r, s.b.get r < 2 ^ (64 * s.L)

/-- The command latched in `CMD` is `i` (rule R27). -/
def Latched (s : State) (i : Instr) : Prop := decode s.cmd = .ok i

/-- Rule R36, (a) to (g). -/
structure Rule36 (s : State) : Prop where
  /-- (a) -/
  busy_not_done : s.busy = true → s.done = false
  /-- (b) -/
  modulus : ∀ i, Latched s i → s.busy = true → i.reducing = true → s.rd i.lane .M ≠ 0
  /-- (c) -/
  no_code : s.err = false → s.errcode = 0
  /-- (d) -/
  cmd_bits : s.cmd.toNat < 32 ∧ s.cmd.toNat % 16 ≤ 9
  /-- (e) -/
  reduced : ∀ i, Latched s i → s.phase = .asc ∨ s.phase = .fin →
    s.rd i.lane .A < s.rd i.lane .M ∧ s.rd i.lane .B < s.rd i.lane .M
  /-- (f) -/
  fib_phase : s.phase = .desc ∨ s.phase = .base ∨ s.phase = .asc ∨ s.phase = .fin → s.cmd.toNat % 16 = 9
  /-- (f) -/
  exec_phase : s.phase = .exec → s.cmd.toNat % 16 ≤ 8
  /-- (g); `UPC ≤ 6` is its type. -/
  level : ∀ i, Latched s i → s.lvl ≤ s.XW i.lane

/-- Rule R36 with what makes it inductive: the capacity, a legal command word in `CMD` (rule R27), a real error code while
`ERR` = 1 (U7), `GT` and `EQ` never both 1 (rule R30), how far `LVL` has come in each phase (rules R187, R190, C10), and
the reduced values of a level (rule R184). -/
structure Inv (s : State) : Prop extends Rule36 s where
  capacity : Capacity s
  cmd_legal : ∃ i, Latched s i
  code : s.err = true → s.errcode = 1 ∨ s.errcode = 2 ∨ s.errcode = 3
  flags : ¬(s.gt = true ∧ s.eq = true)
  level_zero : s.phase = .idle ∨ s.phase = .exec ∨ s.phase = .fin → s.lvl = 0
  upc_zero : s.phase ≠ .asc → s.upc = 0
  desc_level : ∀ i, Latched s i → s.phase = .desc →
    s.rd i.lane .K = s.rd i.lane .N / 2 ^ s.lvl ∧ s.lvl ≤ bitlen (s.rd i.lane .N)
  base_level : ∀ i, Latched s i → s.phase = .base → s.lvl = bitlen (s.rd i.lane .N)
  asc_level : ∀ i, Latched s i → s.phase = .asc → 1 ≤ s.lvl ∧ s.lvl ≤ bitlen (s.rd i.lane .N)
  asc_reduced : ∀ i, Latched s i → s.phase = .asc →
    (3 ≤ s.upc.val → s.rd i.lane .C < s.rd i.lane .M) ∧ (5 ≤ s.upc.val → s.rd i.lane .D < s.rd i.lane .M)

/-- `FIB` of a lane. -/
def fibOf : Lane → Instr
  | .f => .fibF
  | .b => .fibB

/-- What the working registers hold before micro-step `UPC` of a level whose smaller index is `k2` (rules R180, R189). -/
def LevelSoFar (ln : Lane) (k2 : Nat) (s : State) : Prop :=
  let m := s.rd ln .M
  let a := s.rd ln .A
  let b := s.rd ln .B
  let c := fibMod (2 * k2) m
  let d := fibMod (2 * k2 + 1) m
  match s.upc with
  | 0 => True
  | 1 => s.rd ln .T = 2 * b % m
  | 2 => s.rd ln .T = (2 * b + (m - a)) % m
  | 3 => s.rd ln .C = c
  | 4 => s.rd ln .C = c ∧ s.rd ln .T = a * a % m
  | 5 => s.rd ln .C = c ∧ s.rd ln .T = a * a % m ∧ s.rd ln .D = b * b % m
  | 6 => s.rd ln .C = c ∧ s.rd ln .D = d

/-- Where a running `FIB` stands, phase by phase (rules R187 to R191). -/
def FibProgress (ln : Lane) (s : State) : Prop :=
  let n := s.rd ln .N
  let m := s.rd ln .M
  match s.phase with
  | .idle => False
  | .exec => False
  | .desc => s.rd ln .K = n / 2 ^ s.lvl ∧ s.lvl ≤ bitlen n
  | .base => s.lvl = bitlen n
  | .asc => 1 ≤ s.lvl ∧ s.lvl ≤ bitlen n ∧ (s.rd ln .A, s.rd ln .B) = fibPair m (n / 2 ^ s.lvl) ∧
      LevelSoFar ln (n / 2 ^ s.lvl) s
  | .fin => s.lvl = 0 ∧ (s.rd ln .A, s.rd ln .B) = fibPair m n

/-- A `FIB` of lane `ln` is in flight with a modulus that is not 0 (rules R191, R195). -/
structure FibRun (ln : Lane) (s : State) : Prop where
  latched : Latched s (fibOf ln)
  modulus : s.rd ln .M ≠ 0
  progress : FibProgress ln s

/-- The micro-steps a running `FIB` still needs (rule R193). -/
def stepsLeft (ln : Lane) (s : State) : Nat :=
  let l := bitlen (s.rd ln .N)
  match s.phase with
  | .idle => 0
  | .exec => 1
  | .desc => (l - s.lvl) + 7 * l + 3
  | .base => 7 * s.lvl + 2
  | .asc => 7 * s.lvl - s.upc.val + 1
  | .fin => 1

/-- The state after `raise E` with code `c` (rule R242): the first error since the last clear is kept. -/
def withError (c : BitVec 4) (s : State) : State :=
  { s with err := true, errcode := if s.err then s.errcode else c }

/-- How many turns of a schedule let a micro-step take effect. -/
def ticks (ts : List Turn) : Nat := ts.countP (fun t => t.tick)

/-- No turn of a schedule resets the block. -/
def NoReset (ts : List Turn) : Prop := ∀ t ∈ ts, t.rst = false

/-- The address names nothing in an instance with `L` limbs (rule R61). -/
def ReservedAddr (L a : Nat) : Prop :=
  (4 ≤ a ∧ a < 0x010) ∨ (0x015 ≤ a ∧ a < 0x100) ∨ (0x100 ≤ a ∧ a < 0x600 ∧ L ≤ a % 256) ∨ 0x600 ≤ a

/-- The address names a register the host cannot write: `ID`, `F.R`, a limb of `B.R` (rules R61, R66). -/
def ReadOnlyAddr (L a : Nat) : Prop := a = 0 ∨ a = 0x014 ∨ (0x500 ≤ a ∧ a < 0x500 + L)

/-- Two states agree on what a lane's commands may depend on: its host-visible registers and the flags (rules R23, R74). -/
def SameVisible (ln : Lane) (s t : State) : Prop :=
  s.L = t.L ∧ s.phase = t.phase ∧ s.gt = t.gt ∧ s.eq = t.eq ∧ s.ev = t.ev ∧
    ∀ r, (indexOfReg r).isSome = true → s.rd ln r = t.rd ln r

end Sys2Proof.Safety
end

