-- ==== Sys2Proof/Certificates/Slice0/Obligations.lean ====
section
/-! DEFINITION. The statements about the model, for the provers. `exec i s` is the next atomic action of command `i`: its
issue when the core is idle, its enabled micro-step when it is in flight (log entry 8). -/

open Sys2Proof
open Sys2Proof.Machine
open Sys2Proof.Safety

/-! ### Encoding -/

/-- Decoding and encoding agree on every word and every command (rules R90, R92, R94). -/
def Obligations.DecodeIsInverseOfEncode : Prop :=
  ∀ (w : Word) (i : Instr), decode w = .ok i ↔ w = encode i

/-- The 19 legal words are these, each its own command, and no other word is legal (rule R92). -/
def Obligations.LegalWordsAreExactlyNineteen : Prop :=
  decode 0x00 = .ok .nop ∧ decode 0x01 = .ok .mulmodF ∧ decode 0x02 = .ok .addmodF ∧ decode 0x03 = .ok .submodF ∧
  decode 0x04 = .ok .dblmodF ∧ decode 0x05 = .ok .reduceF ∧ decode 0x06 = .ok .halveF ∧ decode 0x07 = .ok .isevenF ∧
  decode 0x08 = .ok .cmpF ∧ decode 0x09 = .ok .fibF ∧ decode 0x11 = .ok .mulmodB ∧ decode 0x12 = .ok .addmodB ∧
  decode 0x13 = .ok .submodB ∧ decode 0x14 = .ok .dblmodB ∧ decode 0x15 = .ok .reduceB ∧ decode 0x16 = .ok .halveB ∧
  decode 0x17 = .ok .isevenB ∧ decode 0x18 = .ok .cmpB ∧ decode 0x19 = .ok .fibB ∧
  ∀ (w : Word) (i : Instr), decode w = .ok i → w.toNat ≤ 0x09 ∨ (0x11 ≤ w.toNat ∧ w.toNat ≤ 0x19)

/-- Decoding reads the fields as rule R94 says, test by test, on all 2^64 words. -/
def Obligations.DecodingFollowsTheFields : Prop :=
  ∀ w : Word,
    (w.toNat / 32 ≠ 0 → decode w = .error .reservedBits) ∧
    (w.toNat / 32 = 0 → 10 ≤ w.toNat % 16 → decode w = .error .reservedOp) ∧
    (w.toNat / 32 = 0 → w.toNat % 16 = 0 → w.toNat / 16 = 1 → decode w = .error .nopWithLane) ∧
    (w.toNat / 32 = 0 → w.toNat % 16 < 10 → ¬(w.toNat % 16 = 0 ∧ w.toNat / 16 = 1) →
      ∃ i, decode w = .ok i ∧ i.opCode.toNat = w.toNat % 16 ∧
        (w.toNat % 16 ≠ 0 → (w.toNat / 16 = 0 → i.lane = .f) ∧ (w.toNat / 16 = 1 → i.lane = .b)))

/-- A word of each family, written out from rule R92, and three words of rule R93 that are refused. -/
def Obligations.WrittenOutWordsDecode : Prop :=
  decode 0b0000000000000000000000000000000000000000000000000000000000000000 = .ok .nop ∧
  decode 0b0000000000000000000000000000000000000000000000000000000000000001 = .ok .mulmodF ∧
  decode 0b0000000000000000000000000000000000000000000000000000000000010011 = .ok .submodB ∧
  decode 0b0000000000000000000000000000000000000000000000000000000000011000 = .ok .cmpB ∧
  decode 0b0000000000000000000000000000000000000000000000000000000000001001 = .ok .fibF ∧
  decode 0x0A = .error .reservedOp ∧ decode 0x10 = .error .nopWithLane ∧ decode 0x8000000000000009 = .error .reservedBits

/-! ### A step runs the decoded command -/

/-- The host's write of a legal word to `CMD` on an idle core runs that command's meaning, whether or not a micro-step
could have taken effect in the same cycle (rules R70, R221, R224). -/
def Obligations.StepIssuesTheDecodedCommand : Prop :=
  ∀ (s : State) (w : Word) (i : Instr) (tick : Bool) (ts : List Turn) (rest : List HostAccess),
    s.phase = .idle → s.schedule = { rst := false, host := true, tick := tick } :: ts →
    s.program = .write 0x003 w :: rest → decode w = .ok i →
    step s = exec i { s with schedule := ts, program := rest }

/-- In a cycle without an access a busy core runs the micro-step of the command latched in `CMD` (rules R27, R224). -/
def Obligations.StepRunsTheLatchedCommand : Prop :=
  ∀ (s : State) (i : Instr) (ts : List Turn),
    s.phase ≠ .idle → s.schedule = { rst := false, host := false, tick := true } :: ts → decode s.cmd = .ok i →
    step s = exec i { s with schedule := ts }

/-- A bus write and a micro-step in one cycle: the write first, then the micro-step that was enabled before it
(rule R224). -/
def Obligations.SameCycleWriteComesBeforeMicroStep : Prop :=
  ∀ (s : State) (a : Addr) (v : Word) (i : Instr) (ts : List Turn) (rest : List HostAccess),
    s.phase ≠ .idle → s.schedule = { rst := false, host := true, tick := true } :: ts →
    s.program = .write a v :: rest → decode s.cmd = .ok i →
    step s = andThen (busWrite a v { s with schedule := ts, program := rest }) (exec i)

/-- When no interleaving is fixed a busy core steps alone, and an idle core whose host has nothing left to do keeps its
state. The choice of turn is the model's (log entry 4); that a run goes on with micro-steps alone is rule R233. -/
def Obligations.RunGoesOnWithMicroStepsAlone : Prop :=
  ∀ s : State, s.schedule = [] →
    (∀ i, s.phase ≠ .idle → decode s.cmd = .ok i → step s = exec i s) ∧
    (s.phase = .idle → s.program = [] → step s = .next s)

/-- The step after placing a legal word runs exactly that command, issued to an idle core (log entry 10). -/
def Obligations.PlacedWordRunsNext : Prop :=
  ∀ (s : State) (i : Instr),
    step (s.withFetchWord 64 (encode i).toNat) = exec i { s with phase := .idle }

/-- A turn in which the host writes, on an idle core or without a micro-step: the step is that bus write, whatever the address
and the word (rules R96, R226). With `SameCycleWriteComesBeforeMicroStep` it covers every write of the host. -/
def Obligations.StepPerformsTheHostsWrite : Prop :=
  ∀ (s : State) (a : Addr) (v : Word) (tick : Bool) (ts : List Turn) (rest : List HostAccess),
    s.schedule = { rst := false, host := true, tick := tick } :: ts → s.program = .write a v :: rest →
    s.phase = .idle ∨ tick = false →
    step s = busWrite a v { s with schedule := ts, program := rest }

/-- A turn in which the host reads: the word returned is `BusRead` of the state before the edge (rules R64, R96, R225). The
read changes nothing of the block; a micro-step that takes effect in the same cycle comes after it. Under reset the word is 0
(rule R272); that the host then goes on to its next access is the model's choice, log entry 9. -/
def Obligations.StepReadsWithoutEffect : Prop :=
  ∀ (s : State) (a : Addr) (tick : Bool) (ts : List Turn) (rest : List HostAccess), s.program = .read a :: rest →
    (s.schedule = { rst := false, host := true, tick := tick } :: ts → s.phase = .idle ∨ tick = false →
      step s = .next { s with
        schedule := ts, program := rest, reads := { addr := a, value := busRead s a } :: s.reads }) ∧
    (s.schedule = { rst := false, host := true, tick := true } :: ts → s.phase ≠ .idle → ∀ i, decode s.cmd = .ok i →
      step s = exec i { s with
        schedule := ts, program := rest, reads := { addr := a, value := busRead s a } :: s.reads }) ∧
    (s.schedule = { rst := true, host := true, tick := tick } :: ts →
      ∃ t, step s = .next t ∧ t.program = rest ∧ t.reads = { addr := a, value := 0 } :: s.reads)

/-- `WAIT` reads `STATUS`, whose bit 0 is `BUSY`; it stays the host's next access while it reads 1 and is done with when it
reads 0 (rule R101). The whole next state, with and without a micro-step in the same cycle. -/
def Obligations.WaitRepeatsWhileBusy : Prop :=
  ∀ (s : State) (tick : Bool) (ts : List Turn) (rest : List HostAccess),
    s.schedule = { rst := false, host := true, tick := tick } :: ts → s.program = .wait :: rest →
    (busRead s 0x002).getLsbD 0 = decide (s.phase ≠ .idle) ∧
    (s.phase = .idle → step s = .next { s with
      schedule := ts, program := rest, reads := { addr := 0x002, value := busRead s 0x002 } :: s.reads }) ∧
    (s.phase ≠ .idle → tick = false → step s = .next { s with
      schedule := ts, reads := { addr := 0x002, value := busRead s 0x002 } :: s.reads }) ∧
    (s.phase ≠ .idle → tick = true → ∀ i, decode s.cmd = .ok i → step s = exec i { s with
      schedule := ts, reads := { addr := 0x002, value := busRead s 0x002 } :: s.reads })

/-! ### The primitive commands -/

/-- `NOP` (rule R220): accepted from `IDLE` whatever the moduli hold; its micro-step writes `DONE` and nothing else; its word
written while busy raises `BusyViolation`. -/
def Obligations.NopWritesOnlyDone : Prop :=
  decode 0x00 = .ok .nop ∧ ∀ s : State,
    (s.phase = .idle → exec .nop s = .next { s with cmd := 0x00, done := false, phase := .exec, lvl := 0, upc := 0 }) ∧
    (s.phase = .exec → exec .nop s = .next { s with done := true, phase := .idle }) ∧
    (s.phase ≠ .idle → busWrite 0x003 0x00 s = .next (withError 3 s))

/-- `MULMOD` on both lanes (rules R122, R142); its words written while busy raise `BusyViolation`. -/
def Obligations.MulmodMultipliesModuloM : Prop :=
  decode 0x01 = .ok .mulmodF ∧ decode 0x11 = .ok .mulmodB ∧ ∀ s : State,
    (s.phase = .idle → s.f.M = 0 → exec .mulmodF s = .next (withError 1 { s with done := false })) ∧
    (s.phase = .idle → s.f.M ≠ 0 → exec .mulmodF s =
      .next { s with cmd := 0x01, done := false, phase := .exec, lvl := 0, upc := 0 }) ∧
    (s.phase = .exec → s.f.M ≠ 0 → exec .mulmodF s = .next { s with
      f := { s.f with R := BitVec.ofNat 64 (s.f.X.toNat * s.f.Y.toNat % s.f.M.toNat) }, done := true, phase := .idle }) ∧
    (s.phase = .idle → s.b.M = 0 → exec .mulmodB s = .next (withError 1 { s with done := false })) ∧
    (s.phase = .idle → s.b.M ≠ 0 → exec .mulmodB s =
      .next { s with cmd := 0x11, done := false, phase := .exec, lvl := 0, upc := 0 }) ∧
    (s.phase = .exec → s.b.M ≠ 0 → Capacity s → exec .mulmodB s = .next { s with
      b := { s.b with R := s.b.X * s.b.Y % s.b.M }, done := true, phase := .idle }) ∧
    (s.phase ≠ .idle → busWrite 0x003 0x01 s = .next (withError 3 s) ∧ busWrite 0x003 0x11 s = .next (withError 3 s))

/-- `ADDMOD` on both lanes (rules R123, R143). -/
def Obligations.AddmodAddsModuloM : Prop :=
  decode 0x02 = .ok .addmodF ∧ decode 0x12 = .ok .addmodB ∧ ∀ s : State,
    (s.phase = .idle → s.f.M = 0 → exec .addmodF s = .next (withError 1 { s with done := false })) ∧
    (s.phase = .idle → s.f.M ≠ 0 → exec .addmodF s =
      .next { s with cmd := 0x02, done := false, phase := .exec, lvl := 0, upc := 0 }) ∧
    (s.phase = .exec → s.f.M ≠ 0 → exec .addmodF s = .next { s with
      f := { s.f with R := BitVec.ofNat 64 ((s.f.X.toNat + s.f.Y.toNat) % s.f.M.toNat) }, done := true, phase := .idle }) ∧
    (s.phase = .idle → s.b.M = 0 → exec .addmodB s = .next (withError 1 { s with done := false })) ∧
    (s.phase = .idle → s.b.M ≠ 0 → exec .addmodB s =
      .next { s with cmd := 0x12, done := false, phase := .exec, lvl := 0, upc := 0 }) ∧
    (s.phase = .exec → s.b.M ≠ 0 → Capacity s → exec .addmodB s = .next { s with
      b := { s.b with R := (s.b.X + s.b.Y) % s.b.M }, done := true, phase := .idle })

/-- `SUBMOD` on both lanes: the residue of X − Y, never negative (rules R124, R144; R7 for the residue). -/
def Obligations.SubmodGivesTheNonNegativeResidue : Prop :=
  decode 0x03 = .ok .submodF ∧ decode 0x13 = .ok .submodB ∧ ∀ s : State,
    (s.phase = .idle → s.f.M = 0 → exec .submodF s = .next (withError 1 { s with done := false })) ∧
    (s.phase = .idle → s.f.M ≠ 0 → exec .submodF s =
      .next { s with cmd := 0x03, done := false, phase := .exec, lvl := 0, upc := 0 }) ∧
    (s.phase = .exec → s.f.M ≠ 0 → exec .submodF s = .next { s with
      f := { s.f with R := BitVec.ofInt 64 (((s.f.X.toNat : Int) - s.f.Y.toNat) % s.f.M.toNat) },
      done := true, phase := .idle }) ∧
    (s.phase = .idle → s.b.M = 0 → exec .submodB s = .next (withError 1 { s with done := false })) ∧
    (s.phase = .idle → s.b.M ≠ 0 → exec .submodB s =
      .next { s with cmd := 0x13, done := false, phase := .exec, lvl := 0, upc := 0 }) ∧
    (s.phase = .exec → s.b.M ≠ 0 → Capacity s → exec .submodB s = .next { s with
      b := { s.b with R := (((s.b.X : Int) - s.b.Y) % s.b.M).toNat }, done := true, phase := .idle })

/-- `DBLMOD` on both lanes (rules R125, R145). -/
def Obligations.DblmodDoublesModuloM : Prop :=
  decode 0x04 = .ok .dblmodF ∧ decode 0x14 = .ok .dblmodB ∧ ∀ s : State,
    (s.phase = .idle → s.f.M = 0 → exec .dblmodF s = .next (withError 1 { s with done := false })) ∧
    (s.phase = .idle → s.f.M ≠ 0 → exec .dblmodF s =
      .next { s with cmd := 0x04, done := false, phase := .exec, lvl := 0, upc := 0 }) ∧
    (s.phase = .exec → s.f.M ≠ 0 → exec .dblmodF s = .next { s with
      f := { s.f with R := BitVec.ofNat 64 (2 * s.f.X.toNat % s.f.M.toNat) }, done := true, phase := .idle }) ∧
    (s.phase = .idle → s.b.M = 0 → exec .dblmodB s = .next (withError 1 { s with done := false })) ∧
    (s.phase = .idle → s.b.M ≠ 0 → exec .dblmodB s =
      .next { s with cmd := 0x14, done := false, phase := .exec, lvl := 0, upc := 0 }) ∧
    (s.phase = .exec → s.b.M ≠ 0 → Capacity s → exec .dblmodB s = .next { s with
      b := { s.b with R := 2 * s.b.X % s.b.M }, done := true, phase := .idle })

/-- `REDUCE` on both lanes (rules R126, R146). -/
def Obligations.ReduceTakesTheRemainder : Prop :=
  decode 0x05 = .ok .reduceF ∧ decode 0x15 = .ok .reduceB ∧ ∀ s : State,
    (s.phase = .idle → s.f.M = 0 → exec .reduceF s = .next (withError 1 { s with done := false })) ∧
    (s.phase = .idle → s.f.M ≠ 0 → exec .reduceF s =
      .next { s with cmd := 0x05, done := false, phase := .exec, lvl := 0, upc := 0 }) ∧
    (s.phase = .exec → s.f.M ≠ 0 → exec .reduceF s = .next { s with
      f := { s.f with R := BitVec.ofNat 64 (s.f.X.toNat % s.f.M.toNat) }, done := true, phase := .idle }) ∧
    (s.phase = .idle → s.b.M = 0 → exec .reduceB s = .next (withError 1 { s with done := false })) ∧
    (s.phase = .idle → s.b.M ≠ 0 → exec .reduceB s =
      .next { s with cmd := 0x15, done := false, phase := .exec, lvl := 0, upc := 0 }) ∧
    (s.phase = .exec → s.b.M ≠ 0 → Capacity s → exec .reduceB s = .next { s with
      b := { s.b with R := s.b.X % s.b.M }, done := true, phase := .idle })

/-- `HALVE` on both lanes, whatever the moduli hold (rules R160, R161, R164). -/
def Obligations.HalveShiftsRightByOne : Prop :=
  decode 0x06 = .ok .halveF ∧ decode 0x16 = .ok .halveB ∧ ∀ s : State,
    (s.phase = .idle → exec .halveF s = .next { s with cmd := 0x06, done := false, phase := .exec, lvl := 0, upc := 0 }) ∧
    (s.phase = .exec → exec .halveF s = .next { s with
      f := { s.f with R := BitVec.ofNat 64 (s.f.X.toNat / 2) }, done := true, phase := .idle }) ∧
    (s.phase = .idle → exec .halveB s = .next { s with cmd := 0x16, done := false, phase := .exec, lvl := 0, upc := 0 }) ∧
    (s.phase = .exec → Capacity s → exec .halveB s = .next { s with
      b := { s.b with R := s.b.X / 2 }, done := true, phase := .idle })

/-- `ISEVEN` on both lanes writes `EV` only, whatever the moduli hold (rules R160, R162, R165). -/
def Obligations.IsevenWritesOnlyEV : Prop :=
  decode 0x07 = .ok .isevenF ∧ decode 0x17 = .ok .isevenB ∧ ∀ s : State,
    (s.phase = .idle → exec .isevenF s = .next { s with cmd := 0x07, done := false, phase := .exec, lvl := 0, upc := 0 }) ∧
    (s.phase = .exec → exec .isevenF s = .next { s with
      ev := decide (s.f.X.toNat % 2 = 0), done := true, phase := .idle }) ∧
    (s.phase = .idle → exec .isevenB s = .next { s with cmd := 0x17, done := false, phase := .exec, lvl := 0, upc := 0 }) ∧
    (s.phase = .exec → exec .isevenB s = .next { s with
      ev := decide (s.b.X % 2 = 0), done := true, phase := .idle })

/-- `CMP` on both lanes writes `GT` and `EQ` only, unsigned, whatever the moduli hold (rules R160, R163, R166). -/
def Obligations.CmpWritesOnlyGTandEQ : Prop :=
  decode 0x08 = .ok .cmpF ∧ decode 0x18 = .ok .cmpB ∧ ∀ s : State,
    (s.phase = .idle → exec .cmpF s = .next { s with cmd := 0x08, done := false, phase := .exec, lvl := 0, upc := 0 }) ∧
    (s.phase = .exec → exec .cmpF s = .next { s with
      gt := decide (s.f.Y.toNat < s.f.X.toNat), eq := decide (s.f.X.toNat = s.f.Y.toNat), done := true, phase := .idle }) ∧
    (s.phase = .idle → exec .cmpB s = .next { s with cmd := 0x18, done := false, phase := .exec, lvl := 0, upc := 0 }) ∧
    (s.phase = .exec → exec .cmpB s = .next { s with
      gt := decide (s.b.Y < s.b.X), eq := decide (s.b.X = s.b.Y), done := true, phase := .idle })

/-! ### The Fibonacci doubler -/

/-- `FIB.F` and `FIB.B` at issue: refused with `InvalidArgument` when the lane's modulus is 0, else accepted into `DESC`
with `K <- N` (rule R186). -/
def Obligations.FibStartsByCopyingTheIndex : Prop :=
  decode 0x09 = .ok .fibF ∧ decode 0x19 = .ok .fibB ∧ ∀ s : State, s.phase = .idle →
    (s.f.M = 0 → exec .fibF s = .next (withError 1 { s with done := false })) ∧
    (s.f.M ≠ 0 → exec .fibF s = .next { s with
      cmd := 0x09, done := false, f := { s.f with K := s.f.N }, phase := .desc, lvl := 0, upc := 0 }) ∧
    (s.b.M = 0 → exec .fibB s = .next (withError 1 { s with done := false })) ∧
    (s.b.M ≠ 0 → Capacity s → exec .fibB s = .next { s with
      cmd := 0x19, done := false, b := { s.b with K := s.b.N }, phase := .desc, lvl := 0, upc := 0 })

/-- The micro-step of `DESC` of `FIB.F` and `FIB.B` (rule R187); where the machine's invariant holds, `LVL` is below the lane's
width whenever it halves, so the count fits (rule R25). -/
def Obligations.FibDescHalvesOrEnds : Prop :=
  (∀ (i : Instr) (s : State), Inv s → Latched s i → s.phase = .desc → s.rd i.lane .K ≠ 0 → s.lvl < s.XW i.lane) ∧
  ∀ (ln : Lane) (s : State), s.phase = .desc →
    (s.rd ln .K ≠ 0 → s.lvl < s.XW ln →
      exec (fibOf ln) s = .next { s.wr ln .K (s.rd ln .K / 2) with lvl := s.lvl + 1 }) ∧
    (s.rd ln .K = 0 → exec (fibOf ln) s = .next { s with phase := .base })

/-- The micro-step of `BASE` of `FIB.F` and `FIB.B` (rule R188). -/
def Obligations.FibBaseLoadsTheBasePair : Prop :=
  ∀ (ln : Lane) (s : State), s.phase = .base → s.rd ln .M ≠ 0 →
    exec (fibOf ln) s = .next { (s.wr ln .A 0).wr ln .B (1 % s.rd ln .M) with
      upc := 0, phase := if s.lvl = 0 then .fin else .asc }

/-- Micro-steps 0 to 5 of `ASC` of `FIB.F` and `FIB.B`, row by row of the micro-program (rule R189). -/
def Obligations.FibAscRunsTheMicroProgram : Prop :=
  ∀ (ln : Lane) (s : State), s.phase = .asc → s.rd ln .M ≠ 0 →
    (s.upc = 0 → exec (fibOf ln) s = .next { s.wr ln .T (2 * s.rd ln .B % s.rd ln .M) with upc := 1 }) ∧
    (s.upc = 1 → exec (fibOf ln) s =
      .next { s.wr ln .T (((s.rd ln .T : Int) - s.rd ln .A) % s.rd ln .M).toNat with upc := 2 }) ∧
    (s.upc = 2 → exec (fibOf ln) s = .next { s.wr ln .C (s.rd ln .A * s.rd ln .T % s.rd ln .M) with upc := 3 }) ∧
    (s.upc = 3 → exec (fibOf ln) s = .next { s.wr ln .T (s.rd ln .A * s.rd ln .A % s.rd ln .M) with upc := 4 }) ∧
    (s.upc = 4 → exec (fibOf ln) s = .next { s.wr ln .D (s.rd ln .B * s.rd ln .B % s.rd ln .M) with upc := 5 }) ∧
    (s.upc = 5 → exec (fibOf ln) s = .next { s.wr ln .D ((s.rd ln .T + s.rd ln .D) % s.rd ln .M) with upc := 6 })

/-- Micro-step 6 of `ASC` of `FIB.F` and `FIB.B` (rule R190): the parity bit selects the pair, one level less; and where the
machine's invariant holds, `1 ≤ LVL ≤ XW` of the lane whenever it runs. -/
def Obligations.FibSelectsByTheParityBit : Prop :=
  (∀ (i : Instr) (s : State), Inv s → Latched s i → s.phase = .asc → 1 ≤ s.lvl ∧ s.lvl ≤ s.XW i.lane) ∧
  ∀ (ln : Lane) (s : State), s.phase = .asc → s.upc = 6 → 1 ≤ s.lvl → s.lvl ≤ s.XW ln → s.rd ln .M ≠ 0 →
    (s.rd ln .N / 2 ^ (s.lvl - 1) % 2 = 0 → exec (fibOf ln) s =
      .next { (s.wr ln .A (s.rd ln .C)).wr ln .B (s.rd ln .D) with
        lvl := s.lvl - 1, upc := 0, phase := if s.lvl = 1 then .fin else .asc }) ∧
    (s.rd ln .N / 2 ^ (s.lvl - 1) % 2 = 1 → exec (fibOf ln) s =
      .next { (s.wr ln .A (s.rd ln .D)).wr ln .B ((s.rd ln .C + s.rd ln .D) % s.rd ln .M) with
        lvl := s.lvl - 1, upc := 0, phase := if s.lvl = 1 then .fin else .asc })

/-- The micro-step of `FIN` (rule R192): the result is written, all limbs, and the command is done; where the pair stands at
P(N), the value written is F(N) mod M, on `FIB.F` and on `FIB.B` (rules R181, R182, R191). -/
def Obligations.FibFinWritesTheResult : Prop :=
  (∀ s : State, s.phase = .fin →
    exec .fibF s = .next { s with f := { s.f with R := s.f.A }, done := true, phase := .idle } ∧
    (Capacity s → exec .fibB s = .next { s with b := { s.b with R := s.b.A }, done := true, phase := .idle })) ∧
  (∀ (ln : Lane) (s : State), s.phase = .fin → Capacity s → FibRun ln s →
    ∃ t, exec (fibOf ln) s = .next t ∧ t.rd ln .R = fibMod (s.rd ln .N) (s.rd ln .M) ∧ t.done = true ∧ t.phase = .idle)

/-- The pair recursion (rule R180) gives the Fibonacci numbers: P(k) = (F(k) mod m, F(k+1) mod m) for every k and m ≥ 1. -/
def Obligations.PairRecursionGivesFibonacci : Prop :=
  ∀ m : Nat, 1 ≤ m →
    fibPair m 0 = (0 % m, 1 % m) ∧
    (∀ k, 1 ≤ k → fibPair m k = doublePair m (decide (k % 2 = 1)) (fibPair m (k / 2))) ∧
    (∀ k, fibPair m k = (Nat.fib k % m, Nat.fib (k + 1) % m))

/-- The properties the source states of the result, (a), (b), (d), (e) of rule R197, of the value `FIB` writes by rule R191,
the first component of P(n). -/
def Obligations.ResultHasTheStatedProperties : Prop :=
  (∀ m, 1 ≤ m → (fibPair m 0).1 = 0 % m ∧ (fibPair m 1).1 = 1 % m) ∧
  (∀ n m, 2 ≤ n → 1 ≤ m → (fibPair m n).1 = ((fibPair m (n - 1)).1 + (fibPair m (n - 2)).1) % m) ∧
  (∀ n, (fibPair 1 n).1 = 0) ∧
  (∀ n, (fibPair 10 (n + 60)).1 = (fibPair 10 n).1)

/-- An accepted `FIB` starts a run of rule R191, with 8·bitlen(N) + 3 micro-steps to go (rules R186, R193). -/
def Obligations.AcceptStartsAFibRun : Prop :=
  ∀ (ln : Lane) (s : State), s.phase = .idle → s.rd ln .M ≠ 0 → Capacity s →
    ∃ t, exec (fibOf ln) s = .next t ∧ FibRun ln t ∧ Capacity t ∧ stepsLeft ln t = 8 * bitlen (s.rd ln .N) + 3 ∧
      t.rd ln .N = s.rd ln .N ∧ t.rd ln .M = s.rd ln .M ∧ t.rd ln .R = s.rd ln .R

/-- The level invariant (rule R191) and what it leads to: whatever access the host makes in the cycle, a step that does not
reset takes a running `FIB` to a running one with the same `N`, `M` and `R`, or completes it with F(N) mod M in `R`
(rules R194, R195). -/
def Obligations.EveryStepKeepsTheLevelInvariant : Prop :=
  ∀ (ln : Lane) (s : State), Capacity s → FibRun ln s → (nextTurn s).1.rst = false →
    ∃ t, step s = .next t ∧ Capacity t ∧ t.rd ln .N = s.rd ln .N ∧ t.rd ln .M = s.rd ln .M ∧
      ((FibRun ln t ∧ t.rd ln .R = s.rd ln .R) ∨
       (t.phase = .idle ∧ t.done = true ∧ t.rd ln .R = fibMod (s.rd ln .N) (s.rd ln .M)))

/-- Each micro-step of a running `FIB` leaves one less to do (rule R193). -/
def Obligations.EachMicroStepLeavesOneLess : Prop :=
  ∀ (ln : Lane) (s t : State), Capacity s → FibRun ln s → exec (fibOf ln) s = .next t →
    stepsLeft ln s = stepsLeft ln t + 1

/-- `FIB` agrees with its contract under every interleaving (rules R181, R182, R193, R194): after the accept, over any
schedule without a reset whose last turn completes the 8·bitlen(N) + 3 micro-steps, whatever the host does meanwhile and
whatever the working registers held, `R` is F(N) mod M, `DONE` is 1 and the core is idle. -/
def Obligations.FibComputesFibonacciUnderEveryInterleaving : Prop :=
  ∀ (ln : Lane) (s s₁ : State) (ts : List Turn) (last : Turn) (rest : List Turn),
    s.phase = .idle → s.rd ln .M ≠ 0 → Capacity s → exec (fibOf ln) s = .next s₁ →
    NoReset (ts ++ [last]) → last.tick = true → ticks (ts ++ [last]) = 8 * bitlen (s.rd ln .N) + 3 →
    ∃ t, core.run (ts.length + 1) { s₁ with schedule := ts ++ last :: rest } = .next t ∧
      t.rd ln .R = fibMod (s.rd ln .N) (s.rd ln .M) ∧ t.done = true ∧ t.phase = .idle

/-- Before its last micro-step a `FIB` is busy and `R` keeps its old value (rules R69, R193, R222): over any schedule
without a reset and with fewer micro-steps. -/
def Obligations.FibStaysBusyUntilItsLastMicroStep : Prop :=
  ∀ (ln : Lane) (s s₁ : State) (ts rest : List Turn),
    s.phase = .idle → s.rd ln .M ≠ 0 → Capacity s → exec (fibOf ln) s = .next s₁ →
    NoReset ts → ticks ts < 8 * bitlen (s.rd ln .N) + 3 →
    ∃ t, core.run ts.length { s₁ with schedule := ts ++ rest } = .next t ∧ t.busy = true ∧ t.rd ln .R = s.rd ln .R

/-! ### The multiplier units -/

/-- No intermediate of `MM64` wraps in the 128-bit domain (rule R120), and narrowing loses nothing (rule R121). -/
def Obligations.WideDomainNeverWraps : Prop :=
  ∀ x y m : Word, m ≠ 0 →
    (zext128 x * zext128 y).toNat = x.toNat * y.toNat ∧
    (zext128 x + zext128 y).toNat = x.toNat + y.toNat ∧
    (zext128 x % zext128 m + zext128 m - zext128 y % zext128 m).toNat =
      x.toNat % m.toNat + m.toNat - y.toNat % m.toNat ∧
    ∀ v : BitVec 128, (narrowMod v m).toNat = v.toNat % m.toNat

/-- The laws of lane F (rule R130), and each operation the lane-B function of the same name on the same naturals. -/
def Obligations.LaneFObeysTheArithmeticLaws : Prop :=
  ∀ x y m : Word, m ≠ 0 →
    (mm64Mulmod x y m).toNat = x.toNat * y.toNat % m.toNat ∧
    (mm64Addmod x y m).toNat = (x.toNat + y.toNat) % m.toNat ∧
    ((mm64Submod x y m).toNat : Int) = ((x.toNat : Int) - y.toNat) % m.toNat ∧
    (mm64Addmod (mm64Submod x y m) y m).toNat = x.toNat % m.toNat ∧
    mm64Dblmod x m = mm64Addmod x x m ∧
    (mm64Reduce x m).toNat = x.toNat % m.toNat ∧ mm64Reduce x m = mm64Mulmod x 1 m ∧
    mm64Reduce x m = mm64Addmod x 0 m ∧
    mm64Mulmod x y m = mm64Mulmod y x m ∧ mm64Addmod x y m = mm64Addmod y x m ∧
    mm64Mulmod x y m < m ∧ mm64Addmod x y m < m ∧ mm64Submod x y m < m ∧ mm64Dblmod x m < m ∧ mm64Reduce x m < m ∧
    (m = 1 → mm64Mulmod x y m = 0 ∧ mm64Addmod x y m = 0 ∧ mm64Submod x y m = 0 ∧ mm64Dblmod x m = 0 ∧
      mm64Reduce x m = 0) ∧
    (mm64Mulmod x y m).toNat = mmwMulmod x.toNat y.toNat m.toNat ∧
    (mm64Addmod x y m).toNat = mmwAddmod x.toNat y.toNat m.toNat ∧
    (mm64Submod x y m).toNat = mmwSubmod x.toNat y.toNat m.toNat ∧
    (mm64Dblmod x m).toNat = mmwDblmod x.toNat m.toNat ∧ (mm64Reduce x m).toNat = mmwReduce x.toNat m.toNat

/-- Consistency across lanes (rule R147): on values below 2^64 and a modulus that is not 0 the two units give one answer,
a value below the modulus. -/
def Obligations.LanesGiveOneAnswer : Prop :=
  ∀ (op : BeOp) (x y m : Nat), op.reducing = true → x < 2 ^ 64 → y < 2 ^ 64 → m < 2 ^ 64 → 1 ≤ m →
    ∃ r, backendValue .f op x y m = some r ∧ backendValue .b op x y m = some r ∧ r < m

/-- A reducing code presented with modulus 0 has no answer (rule R98, U1), and a micro-step that would need it stops by
name; no claim rests on a value there (log entry 5). -/
def Obligations.ZeroModulusHasNoAnswer : Prop :=
  (∀ (ln : Lane) (op : BeOp) (a b : Nat), op.reducing = true → backend ln op a b 0 = none) ∧
  (∀ (i : Instr) (s : State), s.phase = .exec → i.reducing = true → i.isFib = false → s.rd i.lane .M = 0 →
    exec i s = .fault .backendModulusZero)

/-! ### The bus -/

/-- `ln.REG <- v` then `ln.REG`: a register holds the `v` written where it fits, as rule R8 has it wherever it writes, and no
other register of either lane changes (rule R23). That a wider `v` is taken modulo `2^XW` is the model's, log entry 2. -/
def Obligations.RegisterHoldsWhatWasWritten : Prop :=
  ∀ (s : State) (ln ln' : Lane) (r r' : Reg) (v : Nat),
    (s.wr ln r v).rd ln r = v % 2 ^ s.XW ln ∧ ((ln, r) ≠ (ln', r') → (s.wr ln r v).rd ln' r' = s.rd ln' r')

/-- `BusRead` (rule R225), address by address, as numbers. -/
def Obligations.BusReadReturnsTheMappedWord : Prop :=
  ∀ s : State, Capacity s →
    (busRead s 0x000).toNat = 0x4646494200010000 + s.L ∧
    (busRead s 0x001).toNat = s.ieDone.toNat + 2 * s.ieErr.toNat ∧
    (busRead s 0x002).toNat = s.busy.toNat + 2 * s.done.toNat + 4 * s.err.toNat + 16 * s.errcode.toNat +
      256 * s.gt.toNat + 512 * s.eq.toNat + 1024 * s.ev.toNat ∧
    busRead s 0x003 = s.cmd ∧
    busRead s 0x010 = s.f.N ∧ busRead s 0x011 = s.f.M ∧ busRead s 0x012 = s.f.X ∧ busRead s 0x013 = s.f.Y ∧
    busRead s 0x014 = s.f.R ∧
    (∀ i, i < s.L → ∀ a : Addr,
      (a.toNat = 0x100 + i → (busRead s a).toNat = s.b.N / 2 ^ (64 * i) % 2 ^ 64) ∧
      (a.toNat = 0x200 + i → (busRead s a).toNat = s.b.M / 2 ^ (64 * i) % 2 ^ 64) ∧
      (a.toNat = 0x300 + i → (busRead s a).toNat = s.b.X / 2 ^ (64 * i) % 2 ^ 64) ∧
      (a.toNat = 0x400 + i → (busRead s a).toNat = s.b.Y / 2 ^ (64 * i) % 2 ^ 64) ∧
      (a.toNat = 0x500 + i → (busRead s a).toNat = s.b.R / 2 ^ (64 * i) % 2 ^ 64)) ∧
    (∀ a : Addr, ReservedAddr s.L a.toNat → busRead s a = 0)

/-- Writes to read-only registers and to reserved addresses change nothing and raise nothing, and reserved addresses read
0, busy or idle (rules R65, R66). -/
def Obligations.ReservedAndReadOnlyIgnoreWrites : Prop :=
  ∀ (s : State) (a : Addr) (v : Word), Capacity s →
    (ReservedAddr s.L a.toNat → busRead s a = 0 ∧ busWrite a v s = .next s) ∧
    (ReadOnlyAddr s.L a.toNat → busWrite a v s = .next s)

/-- An operand write of either lane while busy is dropped and raises `BusyViolation` (rule R227). -/
def Obligations.OperandWriteWhileBusyIsDropped : Prop :=
  ∀ (s : State) (a : Addr) (v : Word), s.phase ≠ .idle →
    ((0x010 ≤ a.toNat ∧ a.toNat ≤ 0x013) ∨ (0x100 ≤ a.toNat ∧ a.toNat < 0x500 ∧ a.toNat % 256 < s.L)) →
    busWrite a v s = .next (withError 3 s)

/-- An operand write while idle replaces the addressed word and nothing else (rule R228). -/
def Obligations.OperandWriteWhileIdleReplacesTheWord : Prop :=
  ∀ (s : State) (v : Word), s.phase = .idle → Capacity s →
    busWrite 0x010 v s = .next { s with f := { s.f with N := v } } ∧
    busWrite 0x011 v s = .next { s with f := { s.f with M := v } } ∧
    busWrite 0x012 v s = .next { s with f := { s.f with X := v } } ∧
    busWrite 0x013 v s = .next { s with f := { s.f with Y := v } } ∧
    ∀ (i : Nat) (a : Addr), i < s.L →
      (a.toNat = 0x100 + i → busWrite a v s = .next { s with b := { s.b with
        N := s.b.N - s.b.N / 2 ^ (64 * i) % 2 ^ 64 * 2 ^ (64 * i) + v.toNat * 2 ^ (64 * i) } }) ∧
      (a.toNat = 0x200 + i → busWrite a v s = .next { s with b := { s.b with
        M := s.b.M - s.b.M / 2 ^ (64 * i) % 2 ^ 64 * 2 ^ (64 * i) + v.toNat * 2 ^ (64 * i) } }) ∧
      (a.toNat = 0x300 + i → busWrite a v s = .next { s with b := { s.b with
        X := s.b.X - s.b.X / 2 ^ (64 * i) % 2 ^ 64 * 2 ^ (64 * i) + v.toNat * 2 ^ (64 * i) } }) ∧
      (a.toNat = 0x400 + i → busWrite a v s = .next { s with b := { s.b with
        Y := s.b.Y - s.b.Y / 2 ^ (64 * i) % 2 ^ 64 * 2 ^ (64 * i) + v.toNat * 2 ^ (64 * i) } })

/-- After an operand write while idle, that address reads the word written and every other address reads as before
(rules R67 (a), R228). -/
def Obligations.WrittenOperandReadsBackAlone : Prop :=
  ∀ (s : State) (a a' : Addr) (v : Word), s.phase = .idle → Capacity s →
    ((0x010 ≤ a.toNat ∧ a.toNat ≤ 0x013) ∨ (0x100 ≤ a.toNat ∧ a.toNat < 0x500 ∧ a.toNat % 256 < s.L)) →
    ∃ t, busWrite a v s = .next t ∧ Capacity t ∧ busRead t a = v ∧ (a' ≠ a → busRead t a' = busRead s a')

/-- Writes to `STATUS` and `CTRL`, busy or idle (rules R229, R230). -/
def Obligations.StatusAndCtrlWritesActBitByBit : Prop :=
  ∀ (s : State) (v : Word),
    busWrite 0x002 v s = .next { s with
      done := if v.toNat / 2 % 2 = 1 then false else s.done
      err := if v.toNat / 4 % 2 = 1 then false else s.err
      errcode := if v.toNat / 4 % 2 = 1 then 0 else s.errcode } ∧
    busWrite 0x001 v s = .next { s with
      ieDone := decide (v.toNat % 2 = 1), ieErr := decide (v.toNat / 2 % 2 = 1) }

/-- A write to `CMD` (rule R221): busy, illegal word, zero modulus, accept, in that order. -/
def Obligations.CommandWriteDoesTheFirstThatHolds : Prop :=
  ∀ (s : State) (w : Word), Capacity s →
    (s.phase ≠ .idle → busWrite 0x003 w s = .next (withError 3 s)) ∧
    (s.phase = .idle → ∀ e, decode w = .error e → busWrite 0x003 w s = .next (withError 2 { s with done := false })) ∧
    (s.phase = .idle → ∀ i, decode w = .ok i →
      (w.toNat % 16 ∈ [1, 2, 3, 4, 5, 9] → s.rd i.lane .M = 0 →
        busWrite 0x003 w s = .next (withError 1 { s with done := false })) ∧
      (w.toNat % 16 ∈ [0, 6, 7, 8] ∨ (w.toNat % 16 ∈ [1, 2, 3, 4, 5] ∧ s.rd i.lane .M ≠ 0) →
        busWrite 0x003 w s = .next { s with cmd := w, done := false, phase := .exec, lvl := 0, upc := 0 }) ∧
      (w.toNat % 16 = 9 → s.rd i.lane .M ≠ 0 →
        busWrite 0x003 w s = .next { s.wr i.lane .K (s.rd i.lane .N) with
          cmd := w, done := false, phase := .desc, lvl := 0, upc := 0 }))

/-- The interrupt output is the level the host can work out from `STATUS` and `CTRL` (rule R33). -/
def Obligations.IrqIsTheMaskedStatus : Prop :=
  ∀ s : State, s.irq = ((busRead s 0x002).getLsbD 1 && (busRead s 0x001).getLsbD 0 ||
    (busRead s 0x002).getLsbD 2 && (busRead s 0x001).getLsbD 1)

/-- `LDB` writes the whole register, whatever limbs it held (rule R101; hazard H4, rule R279); the writes that `LDB` of the
read-only `B.R` would stand for change nothing (rule R66), which the model calls not well formed (log entry 17). -/
def Obligations.LdbWritesEveryLimb : Prop :=
  (∀ (s : State) (r : Reg) (v : Nat), s.phase = .idle → Capacity s → (HostLine.ldb r v).wf s.L = true →
    performWrites ((HostLine.ldb r v).expand s.L) s = .next (s.wr .b r v)) ∧
  ∀ (s : State) (v : Nat), Capacity s → performWrites ((HostLine.ldb .R v).expand s.L) s = .next s

/-- `RDB` reads the whole register: the words of its accesses, weighted, are the value (rules R22, R101). -/
def Obligations.RdbReadsEveryLimb : Prop :=
  ∀ (s : State) (r : Reg) (k : Nat), Capacity s → indexOfReg r = some k →
    (HostLine.rdb r).expand s.L = (List.range s.L).map (fun i => .read (BitVec.ofNat 12 (256 * (k + 1) + i))) ∧
    valueOfLimbs ((List.range s.L).map (fun i => busRead s (BitVec.ofNat 12 (256 * (k + 1) + i)))) = s.rd .b r

/-! ### Errors, reset and the whole machine -/

/-- `raise` records the first error since the last clear, with the codes of rule R240, and changes nothing else
(rule R242). -/
def Obligations.RaiseKeepsTheFirstError : Prop :=
  BusError.invalidArgument.code = 1 ∧ BusError.illegalCommand.code = 2 ∧ BusError.busyViolation.code = 3 ∧
  ∀ (e : BusError) (s : State),
    (s.err = false → raise e s = { s with err := true, errcode := e.code }) ∧ (s.err = true → raise e s = s)

/-- Only a write to `STATUS` takes an error record away: any other write leaves a recorded error and its code as they are
(rules R248, R249). -/
def Obligations.RecordedErrorStaysUntilCleared : Prop :=
  ∀ (s t : State) (a : Addr) (v : Word), s.err = true → a ≠ 0x002 → busWrite a v s = .next t →
    t.err = true ∧ t.errcode = s.errcode

/-- Reset wins over the bus and the core in its cycle and gives every piece of the block's state its reset value; the read
data is 0 (rules R270, R271, R272; R35 for the values). So it is through `step`, in every turn with `rst` = 1. What the host's
own list and record are after such a turn is left open here: it is the model's choice, log entry 9. -/
def Obligations.ResetClearsEverything : Prop :=
  (∀ (p : Pins) (tick : Bool) (s : State), p.rst = true →
    busRdata p s = some 0 ∧
    clockEdge p tick s = .next { s with
      f := { N := 0, M := 0, X := 0, Y := 0, R := 0, K := 0, A := 0, B := 0, C := 0, D := 0, T := 0 }
      b := { N := 0, M := 0, X := 0, Y := 0, R := 0, K := 0, A := 0, B := 0, C := 0, D := 0, T := 0 }
      phase := .idle, lvl := 0, upc := 0, cmd := 0, done := false, err := false, errcode := 0
      gt := false, eq := false, ev := false, ieDone := false, ieErr := false }) ∧
  ∀ (s : State) (host tick : Bool) (ts : List Turn), s.schedule = { rst := true, host := host, tick := tick } :: ts →
    ∃ program reads, step s = .next { s with
      f := { N := 0, M := 0, X := 0, Y := 0, R := 0, K := 0, A := 0, B := 0, C := 0, D := 0, T := 0 }
      b := { N := 0, M := 0, X := 0, Y := 0, R := 0, K := 0, A := 0, B := 0, C := 0, D := 0, T := 0 }
      phase := .idle, lvl := 0, upc := 0, cmd := 0, done := false, err := false, errcode := 0
      gt := false, eq := false, ev := false, ieDone := false, ieErr := false
      schedule := ts, program := program, reads := reads }

/-- What the host can rely on after reset (rule R273), for every `L` the instance may have. -/
def Obligations.AfterResetEverythingReadsZero : Prop :=
  1 ≤ State.reset.L ∧ State.reset.L ≤ 256 ∧
  (busRead State.reset 0x000).toNat = 0x4646494200010000 + State.reset.L ∧
  (∀ a : Addr, a ≠ 0x000 → busRead State.reset a = 0) ∧ State.reset.irq = false ∧ State.reset.busy = false ∧
  microStep State.reset = .next State.reset

/-- The invariants hold after reset, for every `L` in range (rules R35, R36). -/
def Obligations.InvariantHoldsAfterReset : Prop :=
  Inv State.reset ∧ ∀ L, 1 ≤ L → L ≤ 256 → Inv (State.resetWith L)

/-- Every step keeps the invariants of rule R36 (with what makes them inductive), whatever the host does and whatever the
interleaving. -/
def Obligations.EveryStepKeepsTheInvariant : Prop :=
  ∀ s t : State, Inv s → step s = .next t → Inv t

/-- No state that meets the invariants is stuck: every step goes on, and a busy core always has a micro-step to take
(rules R195, R224). -/
def Obligations.NoStepStops : Prop :=
  ∀ s : State, Inv s → (∃ t, step s = .next t) ∧ (∃ t, microStep s = .next t) ∧ (s.busy = false → microStep s = .next s)

/-- What a command changes, whatever it is and whatever it does next (rules R23, R24, R37): never `L`, `CTRL`, the host, an
operand of either lane or any register of the other lane; in flight never the error record or `CMD`. -/
def Obligations.CommandsKeepOperandsAndTheOtherLane : Prop :=
  ∀ (i : Instr) (s t : State), exec i s = .next t →
    t.L = s.L ∧ t.ieDone = s.ieDone ∧ t.ieErr = s.ieErr ∧ t.program = s.program ∧ t.schedule = s.schedule ∧
    t.reads = s.reads ∧
    (∀ ln, t.rd ln .N = s.rd ln .N ∧ t.rd ln .M = s.rd ln .M ∧ t.rd ln .X = s.rd ln .X ∧ t.rd ln .Y = s.rd ln .Y) ∧
    (∀ ln r, ln ≠ i.lane → t.rd ln r = s.rd ln r) ∧
    (s.phase ≠ .idle → t.err = s.err ∧ t.errcode = s.errcode ∧ t.cmd = s.cmd)

/-- Flags are written only by `CMP` and `ISEVEN` (rule R30), and working registers only by `FIB` (rule R26). -/
def Obligations.OnlyCmpAndIsevenWriteFlags : Prop :=
  ∀ (i : Instr) (s t : State), exec i s = .next t →
    (i ≠ .cmpF → i ≠ .cmpB → t.gt = s.gt ∧ t.eq = s.eq) ∧
    (i ≠ .isevenF → i ≠ .isevenB → t.ev = s.ev) ∧
    (i ≠ .fibF → i ≠ .fibB → ∀ ln r, indexOfReg r = none → t.rd ln r = s.rd ln r)

/-- The result register is written once, by the completing micro-step of its own lane's command (rule R69). -/
def Obligations.ResultIsWrittenOnlyAtCompletion : Prop :=
  ∀ (i : Instr) (s t : State) (ln : Lane), exec i s = .next t → t.rd ln .R ≠ s.rd ln .R →
    ln = i.lane ∧ (s.phase = .exec ∨ s.phase = .fin) ∧ t.phase = .idle ∧ t.done = true

/-- The result and the flags of a primitive command depend on the lane's host-visible registers alone: nothing hidden, no
other lane and no earlier command shows through (rules R23, R26, R74). -/
def Obligations.HiddenStateNeverShows : Prop :=
  ∀ (i : Instr) (s₁ s₂ t₁ : State), i.isFib = false → s₁.phase = .exec → SameVisible i.lane s₁ s₂ →
    exec i s₁ = .next t₁ → ∃ t₂, exec i s₂ = .next t₂ ∧ SameVisible i.lane t₁ t₂
end

