-- ==== Sys2Proof/Laws/PerInstr.lean ====
section
/-! SUPPORT. Facts about each command as syntax, one lemma a constructor: its word is legal, decodes to it, and carries its
code and lane (rules R90 to R94). -/

namespace Sys2Proof.Laws.RoundTrip

/-- The word of a command decodes to it, its fields pass the checks, and the fields of the word are those it was built
from. -/
def Statement (i : Instr) : Prop := decode (encode i) = .ok i ∧ i.fields.wf = true ∧ fieldsOf (encode i) = i.fields

theorem nop : Statement .nop := ⟨rfl, rfl, rfl⟩
theorem mulmodF : Statement .mulmodF := ⟨rfl, rfl, rfl⟩
theorem addmodF : Statement .addmodF := ⟨rfl, rfl, rfl⟩
theorem submodF : Statement .submodF := ⟨rfl, rfl, rfl⟩
theorem dblmodF : Statement .dblmodF := ⟨rfl, rfl, rfl⟩
theorem reduceF : Statement .reduceF := ⟨rfl, rfl, rfl⟩
theorem halveF : Statement .halveF := ⟨rfl, rfl, rfl⟩
theorem isevenF : Statement .isevenF := ⟨rfl, rfl, rfl⟩
theorem cmpF : Statement .cmpF := ⟨rfl, rfl, rfl⟩
theorem fibF : Statement .fibF := ⟨rfl, rfl, rfl⟩
theorem mulmodB : Statement .mulmodB := ⟨rfl, rfl, rfl⟩
theorem addmodB : Statement .addmodB := ⟨rfl, rfl, rfl⟩
theorem submodB : Statement .submodB := ⟨rfl, rfl, rfl⟩
theorem dblmodB : Statement .dblmodB := ⟨rfl, rfl, rfl⟩
theorem reduceB : Statement .reduceB := ⟨rfl, rfl, rfl⟩
theorem halveB : Statement .halveB := ⟨rfl, rfl, rfl⟩
theorem isevenB : Statement .isevenB := ⟨rfl, rfl, rfl⟩
theorem cmpB : Statement .cmpB := ⟨rfl, rfl, rfl⟩
theorem fibB : Statement .fibB := ⟨rfl, rfl, rfl⟩

/-- The statement of every command, from its constructor's lemma. -/
theorem all (i : Instr) : Statement i := by
  cases i
  case nop => exact nop
  case mulmodF => exact mulmodF
  case addmodF => exact addmodF
  case submodF => exact submodF
  case dblmodF => exact dblmodF
  case reduceF => exact reduceF
  case halveF => exact halveF
  case isevenF => exact isevenF
  case cmpF => exact cmpF
  case fibF => exact fibF
  case mulmodB => exact mulmodB
  case addmodB => exact addmodB
  case submodB => exact submodB
  case dblmodB => exact dblmodB
  case reduceB => exact reduceB
  case halveB => exact halveB
  case isevenB => exact isevenB
  case cmpB => exact cmpB
  case fibB => exact fibB

end Sys2Proof.Laws.RoundTrip
end

