-- ==== Sys2Proof/Laws/State.lean ====
section
/-! SUPPORT. One lemma for each field of State under each update, so that no proof unfolds a record update; and the laws of
reading and writing a register (rules R8, R23). -/

namespace Sys2Proof.Machine

/-! ### A lane's registers -/

@[simp] theorem LaneRegs.get_set_same {α : Type} (l : LaneRegs α) (r : Reg) (v : α) : (l.set r v).get r = v := by
  cases r <;> rfl

theorem LaneRegs.get_set_ne {α : Type} (l : LaneRegs α) {r r' : Reg} (v : α) (h : r' ≠ r) :
    (l.set r v).get r' = l.get r' := by
  cases r <;> cases r' <;> first | rfl | exact absurd rfl h

@[simp] theorem LaneRegs.get_fill {α : Type} (v : α) (r : Reg) : (LaneRegs.fill v).get r = v := by
  cases r <;> rfl

@[simp] theorem LaneRegs.get_N {α : Type} (l : LaneRegs α) : l.get .N = l.N := rfl
@[simp] theorem LaneRegs.set_N {α : Type} (l : LaneRegs α) (v : α) : l.set .N v = { l with N := v } := rfl
@[simp] theorem LaneRegs.get_M {α : Type} (l : LaneRegs α) : l.get .M = l.M := rfl
@[simp] theorem LaneRegs.set_M {α : Type} (l : LaneRegs α) (v : α) : l.set .M v = { l with M := v } := rfl
@[simp] theorem LaneRegs.get_X {α : Type} (l : LaneRegs α) : l.get .X = l.X := rfl
@[simp] theorem LaneRegs.set_X {α : Type} (l : LaneRegs α) (v : α) : l.set .X v = { l with X := v } := rfl
@[simp] theorem LaneRegs.get_Y {α : Type} (l : LaneRegs α) : l.get .Y = l.Y := rfl
@[simp] theorem LaneRegs.set_Y {α : Type} (l : LaneRegs α) (v : α) : l.set .Y v = { l with Y := v } := rfl
@[simp] theorem LaneRegs.get_R {α : Type} (l : LaneRegs α) : l.get .R = l.R := rfl
@[simp] theorem LaneRegs.set_R {α : Type} (l : LaneRegs α) (v : α) : l.set .R v = { l with R := v } := rfl
@[simp] theorem LaneRegs.get_K {α : Type} (l : LaneRegs α) : l.get .K = l.K := rfl
@[simp] theorem LaneRegs.set_K {α : Type} (l : LaneRegs α) (v : α) : l.set .K v = { l with K := v } := rfl
@[simp] theorem LaneRegs.get_A {α : Type} (l : LaneRegs α) : l.get .A = l.A := rfl
@[simp] theorem LaneRegs.set_A {α : Type} (l : LaneRegs α) (v : α) : l.set .A v = { l with A := v } := rfl
@[simp] theorem LaneRegs.get_B {α : Type} (l : LaneRegs α) : l.get .B = l.B := rfl
@[simp] theorem LaneRegs.set_B {α : Type} (l : LaneRegs α) (v : α) : l.set .B v = { l with B := v } := rfl
@[simp] theorem LaneRegs.get_C {α : Type} (l : LaneRegs α) : l.get .C = l.C := rfl
@[simp] theorem LaneRegs.set_C {α : Type} (l : LaneRegs α) (v : α) : l.set .C v = { l with C := v } := rfl
@[simp] theorem LaneRegs.get_D {α : Type} (l : LaneRegs α) : l.get .D = l.D := rfl
@[simp] theorem LaneRegs.set_D {α : Type} (l : LaneRegs α) (v : α) : l.set .D v = { l with D := v } := rfl
@[simp] theorem LaneRegs.get_T {α : Type} (l : LaneRegs α) : l.get .T = l.T := rfl
@[simp] theorem LaneRegs.set_T {α : Type} (l : LaneRegs α) (v : α) : l.set .T v = { l with T := v } := rfl

/-! ### `State.wr` -/

@[simp] theorem State.wr_L (s : State) (ln : Lane) (r : Reg) (v : Nat) : (s.wr ln r v).L = s.L := by cases ln <;> rfl
@[simp] theorem State.wr_phase (s : State) (ln : Lane) (r : Reg) (v : Nat) : (s.wr ln r v).phase = s.phase := by cases ln <;> rfl
@[simp] theorem State.wr_lvl (s : State) (ln : Lane) (r : Reg) (v : Nat) : (s.wr ln r v).lvl = s.lvl := by cases ln <;> rfl
@[simp] theorem State.wr_upc (s : State) (ln : Lane) (r : Reg) (v : Nat) : (s.wr ln r v).upc = s.upc := by cases ln <;> rfl
@[simp] theorem State.wr_cmd (s : State) (ln : Lane) (r : Reg) (v : Nat) : (s.wr ln r v).cmd = s.cmd := by cases ln <;> rfl
@[simp] theorem State.wr_done (s : State) (ln : Lane) (r : Reg) (v : Nat) : (s.wr ln r v).done = s.done := by cases ln <;> rfl
@[simp] theorem State.wr_err (s : State) (ln : Lane) (r : Reg) (v : Nat) : (s.wr ln r v).err = s.err := by cases ln <;> rfl
@[simp] theorem State.wr_errcode (s : State) (ln : Lane) (r : Reg) (v : Nat) : (s.wr ln r v).errcode = s.errcode := by cases ln <;> rfl
@[simp] theorem State.wr_gt (s : State) (ln : Lane) (r : Reg) (v : Nat) : (s.wr ln r v).gt = s.gt := by cases ln <;> rfl
@[simp] theorem State.wr_eq (s : State) (ln : Lane) (r : Reg) (v : Nat) : (s.wr ln r v).eq = s.eq := by cases ln <;> rfl
@[simp] theorem State.wr_ev (s : State) (ln : Lane) (r : Reg) (v : Nat) : (s.wr ln r v).ev = s.ev := by cases ln <;> rfl
@[simp] theorem State.wr_ieDone (s : State) (ln : Lane) (r : Reg) (v : Nat) : (s.wr ln r v).ieDone = s.ieDone := by cases ln <;> rfl
@[simp] theorem State.wr_ieErr (s : State) (ln : Lane) (r : Reg) (v : Nat) : (s.wr ln r v).ieErr = s.ieErr := by cases ln <;> rfl
@[simp] theorem State.wr_program (s : State) (ln : Lane) (r : Reg) (v : Nat) : (s.wr ln r v).program = s.program := by cases ln <;> rfl
@[simp] theorem State.wr_schedule (s : State) (ln : Lane) (r : Reg) (v : Nat) : (s.wr ln r v).schedule = s.schedule := by cases ln <;> rfl
@[simp] theorem State.wr_reads (s : State) (ln : Lane) (r : Reg) (v : Nat) : (s.wr ln r v).reads = s.reads := by cases ln <;> rfl

/-! ### `State.setLvl` -/

@[simp] theorem State.setLvl_lvl (s : State) (l : Nat) : (s.setLvl l).lvl = l % 2 ^ Config.lvlW s.L := rfl
@[simp] theorem State.setLvl_L (s : State) (l : Nat) : (s.setLvl l).L = s.L := rfl
@[simp] theorem State.setLvl_f (s : State) (l : Nat) : (s.setLvl l).f = s.f := rfl
@[simp] theorem State.setLvl_b (s : State) (l : Nat) : (s.setLvl l).b = s.b := rfl
@[simp] theorem State.setLvl_phase (s : State) (l : Nat) : (s.setLvl l).phase = s.phase := rfl
@[simp] theorem State.setLvl_upc (s : State) (l : Nat) : (s.setLvl l).upc = s.upc := rfl
@[simp] theorem State.setLvl_cmd (s : State) (l : Nat) : (s.setLvl l).cmd = s.cmd := rfl
@[simp] theorem State.setLvl_done (s : State) (l : Nat) : (s.setLvl l).done = s.done := rfl
@[simp] theorem State.setLvl_err (s : State) (l : Nat) : (s.setLvl l).err = s.err := rfl
@[simp] theorem State.setLvl_errcode (s : State) (l : Nat) : (s.setLvl l).errcode = s.errcode := rfl
@[simp] theorem State.setLvl_gt (s : State) (l : Nat) : (s.setLvl l).gt = s.gt := rfl
@[simp] theorem State.setLvl_eq (s : State) (l : Nat) : (s.setLvl l).eq = s.eq := rfl
@[simp] theorem State.setLvl_ev (s : State) (l : Nat) : (s.setLvl l).ev = s.ev := rfl
@[simp] theorem State.setLvl_ieDone (s : State) (l : Nat) : (s.setLvl l).ieDone = s.ieDone := rfl
@[simp] theorem State.setLvl_ieErr (s : State) (l : Nat) : (s.setLvl l).ieErr = s.ieErr := rfl
@[simp] theorem State.setLvl_program (s : State) (l : Nat) : (s.setLvl l).program = s.program := rfl
@[simp] theorem State.setLvl_schedule (s : State) (l : Nat) : (s.setLvl l).schedule = s.schedule := rfl
@[simp] theorem State.setLvl_reads (s : State) (l : Nat) : (s.setLvl l).reads = s.reads := rfl
@[simp] theorem State.setLvl_rd (s : State) (l : Nat) (ln : Lane) (r : Reg) : (s.setLvl l).rd ln r = s.rd ln r := rfl
@[simp] theorem State.setLvl_zero (s : State) : s.setLvl 0 = { s with lvl := 0 } := by simp [State.setLvl]

/-- `LVLW` as rule R5 writes it. -/
theorem lvlW_eq_clog (L : Nat) : Config.lvlW L = Nat.clog 2 (max 64 (Config.widthB L) + 1) := by
  have hx : max 64 (Config.widthB L) ≠ 0 := by have := Nat.le_max_left 64 (Config.widthB L); omega
  rw [Config.lvlW, Config.xlenF, Nat.log2_eq_log_two]
  generalize max 64 (Config.widthB L) = x at hx
  refine le_antisymm ?_ ?_
  · rw [Nat.add_one_le_iff, Nat.lt_clog_iff_pow_lt (by norm_num)]
    exact Nat.lt_succ_of_le (Nat.pow_log_le_self 2 hx)
  · rw [Nat.clog_le_iff_le_pow (by norm_num)]
    exact Nat.lt_pow_succ_log_self (by norm_num) x

/-- A level count that the lane's width allows fits in `LVLW` bits. -/
theorem State.lt_lvlW {s : State} {ln : Lane} {l : Nat} (h : l ≤ s.XW ln) : l < 2 ^ Config.lvlW s.L := by
  have hm : l ≤ max Config.xlenF (Config.widthB s.L) := by
    cases ln
    · exact le_trans h (Nat.le_max_left _ _)
    · exact le_trans h (Nat.le_max_right _ _)
  exact lt_of_le_of_lt hm Nat.lt_log2_self

/-- Writing such a count loses no bit. -/
theorem State.setLvl_fits {s : State} {ln : Lane} {l : Nat} (h : l ≤ s.XW ln) : s.setLvl l = { s with lvl := l } := by
  rw [State.setLvl, Nat.mod_eq_of_lt (State.lt_lvlW h)]

/-! ### `State.setSeq` -/

@[simp] theorem State.setSeq_phase (s : State) (p : Phase) (l : Nat) (u : Fin 7) : (s.setSeq p l u).phase = p := rfl
@[simp] theorem State.setSeq_lvl (s : State) (p : Phase) (l : Nat) (u : Fin 7) : (s.setSeq p l u).lvl = l % 2 ^ Config.lvlW s.L := rfl
@[simp] theorem State.setSeq_upc (s : State) (p : Phase) (l : Nat) (u : Fin 7) : (s.setSeq p l u).upc = u := rfl
@[simp] theorem State.setSeq_L (s : State) (p : Phase) (l : Nat) (u : Fin 7) : (s.setSeq p l u).L = s.L := rfl
@[simp] theorem State.setSeq_f (s : State) (p : Phase) (l : Nat) (u : Fin 7) : (s.setSeq p l u).f = s.f := rfl
@[simp] theorem State.setSeq_b (s : State) (p : Phase) (l : Nat) (u : Fin 7) : (s.setSeq p l u).b = s.b := rfl
@[simp] theorem State.setSeq_cmd (s : State) (p : Phase) (l : Nat) (u : Fin 7) : (s.setSeq p l u).cmd = s.cmd := rfl
@[simp] theorem State.setSeq_done (s : State) (p : Phase) (l : Nat) (u : Fin 7) : (s.setSeq p l u).done = s.done := rfl
@[simp] theorem State.setSeq_err (s : State) (p : Phase) (l : Nat) (u : Fin 7) : (s.setSeq p l u).err = s.err := rfl
@[simp] theorem State.setSeq_errcode (s : State) (p : Phase) (l : Nat) (u : Fin 7) : (s.setSeq p l u).errcode = s.errcode := rfl
@[simp] theorem State.setSeq_gt (s : State) (p : Phase) (l : Nat) (u : Fin 7) : (s.setSeq p l u).gt = s.gt := rfl
@[simp] theorem State.setSeq_eq (s : State) (p : Phase) (l : Nat) (u : Fin 7) : (s.setSeq p l u).eq = s.eq := rfl
@[simp] theorem State.setSeq_ev (s : State) (p : Phase) (l : Nat) (u : Fin 7) : (s.setSeq p l u).ev = s.ev := rfl
@[simp] theorem State.setSeq_ieDone (s : State) (p : Phase) (l : Nat) (u : Fin 7) : (s.setSeq p l u).ieDone = s.ieDone := rfl
@[simp] theorem State.setSeq_ieErr (s : State) (p : Phase) (l : Nat) (u : Fin 7) : (s.setSeq p l u).ieErr = s.ieErr := rfl
@[simp] theorem State.setSeq_program (s : State) (p : Phase) (l : Nat) (u : Fin 7) : (s.setSeq p l u).program = s.program := rfl
@[simp] theorem State.setSeq_schedule (s : State) (p : Phase) (l : Nat) (u : Fin 7) : (s.setSeq p l u).schedule = s.schedule := rfl
@[simp] theorem State.setSeq_reads (s : State) (p : Phase) (l : Nat) (u : Fin 7) : (s.setSeq p l u).reads = s.reads := rfl

/-! ### `complete` -/

@[simp] theorem complete_phase (s : State) : (complete s).phase = .idle := rfl
@[simp] theorem complete_done (s : State) : (complete s).done = true := rfl
@[simp] theorem complete_L (s : State) : (complete s).L = s.L := rfl
@[simp] theorem complete_f (s : State) : (complete s).f = s.f := rfl
@[simp] theorem complete_b (s : State) : (complete s).b = s.b := rfl
@[simp] theorem complete_lvl (s : State) : (complete s).lvl = s.lvl := rfl
@[simp] theorem complete_upc (s : State) : (complete s).upc = s.upc := rfl
@[simp] theorem complete_cmd (s : State) : (complete s).cmd = s.cmd := rfl
@[simp] theorem complete_err (s : State) : (complete s).err = s.err := rfl
@[simp] theorem complete_errcode (s : State) : (complete s).errcode = s.errcode := rfl
@[simp] theorem complete_gt (s : State) : (complete s).gt = s.gt := rfl
@[simp] theorem complete_eq (s : State) : (complete s).eq = s.eq := rfl
@[simp] theorem complete_ev (s : State) : (complete s).ev = s.ev := rfl
@[simp] theorem complete_ieDone (s : State) : (complete s).ieDone = s.ieDone := rfl
@[simp] theorem complete_ieErr (s : State) : (complete s).ieErr = s.ieErr := rfl
@[simp] theorem complete_program (s : State) : (complete s).program = s.program := rfl
@[simp] theorem complete_schedule (s : State) : (complete s).schedule = s.schedule := rfl
@[simp] theorem complete_reads (s : State) : (complete s).reads = s.reads := rfl

/-! ### `latchCommand` -/

@[simp] theorem latchCommand_cmd (i : Instr) (s : State) : (latchCommand i s).cmd = encode i := rfl
@[simp] theorem latchCommand_done (i : Instr) (s : State) : (latchCommand i s).done = false := rfl
@[simp] theorem latchCommand_L (i : Instr) (s : State) : (latchCommand i s).L = s.L := rfl
@[simp] theorem latchCommand_f (i : Instr) (s : State) : (latchCommand i s).f = s.f := rfl
@[simp] theorem latchCommand_b (i : Instr) (s : State) : (latchCommand i s).b = s.b := rfl
@[simp] theorem latchCommand_phase (i : Instr) (s : State) : (latchCommand i s).phase = s.phase := rfl
@[simp] theorem latchCommand_lvl (i : Instr) (s : State) : (latchCommand i s).lvl = s.lvl := rfl
@[simp] theorem latchCommand_upc (i : Instr) (s : State) : (latchCommand i s).upc = s.upc := rfl
@[simp] theorem latchCommand_err (i : Instr) (s : State) : (latchCommand i s).err = s.err := rfl
@[simp] theorem latchCommand_errcode (i : Instr) (s : State) : (latchCommand i s).errcode = s.errcode := rfl
@[simp] theorem latchCommand_gt (i : Instr) (s : State) : (latchCommand i s).gt = s.gt := rfl
@[simp] theorem latchCommand_eq (i : Instr) (s : State) : (latchCommand i s).eq = s.eq := rfl
@[simp] theorem latchCommand_ev (i : Instr) (s : State) : (latchCommand i s).ev = s.ev := rfl
@[simp] theorem latchCommand_ieDone (i : Instr) (s : State) : (latchCommand i s).ieDone = s.ieDone := rfl
@[simp] theorem latchCommand_ieErr (i : Instr) (s : State) : (latchCommand i s).ieErr = s.ieErr := rfl
@[simp] theorem latchCommand_program (i : Instr) (s : State) : (latchCommand i s).program = s.program := rfl
@[simp] theorem latchCommand_schedule (i : Instr) (s : State) : (latchCommand i s).schedule = s.schedule := rfl
@[simp] theorem latchCommand_reads (i : Instr) (s : State) : (latchCommand i s).reads = s.reads := rfl

/-! ### `raise` -/

@[simp] theorem raise_L (e : BusError) (s : State) : (raise e s).L = s.L := by unfold raise; split <;> rfl
@[simp] theorem raise_f (e : BusError) (s : State) : (raise e s).f = s.f := by unfold raise; split <;> rfl
@[simp] theorem raise_b (e : BusError) (s : State) : (raise e s).b = s.b := by unfold raise; split <;> rfl
@[simp] theorem raise_phase (e : BusError) (s : State) : (raise e s).phase = s.phase := by unfold raise; split <;> rfl
@[simp] theorem raise_lvl (e : BusError) (s : State) : (raise e s).lvl = s.lvl := by unfold raise; split <;> rfl
@[simp] theorem raise_upc (e : BusError) (s : State) : (raise e s).upc = s.upc := by unfold raise; split <;> rfl
@[simp] theorem raise_cmd (e : BusError) (s : State) : (raise e s).cmd = s.cmd := by unfold raise; split <;> rfl
@[simp] theorem raise_done (e : BusError) (s : State) : (raise e s).done = s.done := by unfold raise; split <;> rfl
@[simp] theorem raise_gt (e : BusError) (s : State) : (raise e s).gt = s.gt := by unfold raise; split <;> rfl
@[simp] theorem raise_eq (e : BusError) (s : State) : (raise e s).eq = s.eq := by unfold raise; split <;> rfl
@[simp] theorem raise_ev (e : BusError) (s : State) : (raise e s).ev = s.ev := by unfold raise; split <;> rfl
@[simp] theorem raise_ieDone (e : BusError) (s : State) : (raise e s).ieDone = s.ieDone := by unfold raise; split <;> rfl
@[simp] theorem raise_ieErr (e : BusError) (s : State) : (raise e s).ieErr = s.ieErr := by unfold raise; split <;> rfl
@[simp] theorem raise_program (e : BusError) (s : State) : (raise e s).program = s.program := by unfold raise; split <;> rfl
@[simp] theorem raise_schedule (e : BusError) (s : State) : (raise e s).schedule = s.schedule := by unfold raise; split <;> rfl
@[simp] theorem raise_reads (e : BusError) (s : State) : (raise e s).reads = s.reads := by unfold raise; split <;> rfl

/-! ### `clearError` -/

@[simp] theorem clearError_err (s : State) : (clearError s).err = false := rfl
@[simp] theorem clearError_errcode (s : State) : (clearError s).errcode = 0 := rfl
@[simp] theorem clearError_L (s : State) : (clearError s).L = s.L := rfl
@[simp] theorem clearError_f (s : State) : (clearError s).f = s.f := rfl
@[simp] theorem clearError_b (s : State) : (clearError s).b = s.b := rfl
@[simp] theorem clearError_phase (s : State) : (clearError s).phase = s.phase := rfl
@[simp] theorem clearError_lvl (s : State) : (clearError s).lvl = s.lvl := rfl
@[simp] theorem clearError_upc (s : State) : (clearError s).upc = s.upc := rfl
@[simp] theorem clearError_cmd (s : State) : (clearError s).cmd = s.cmd := rfl
@[simp] theorem clearError_done (s : State) : (clearError s).done = s.done := rfl
@[simp] theorem clearError_gt (s : State) : (clearError s).gt = s.gt := rfl
@[simp] theorem clearError_eq (s : State) : (clearError s).eq = s.eq := rfl
@[simp] theorem clearError_ev (s : State) : (clearError s).ev = s.ev := rfl
@[simp] theorem clearError_ieDone (s : State) : (clearError s).ieDone = s.ieDone := rfl
@[simp] theorem clearError_ieErr (s : State) : (clearError s).ieErr = s.ieErr := rfl
@[simp] theorem clearError_program (s : State) : (clearError s).program = s.program := rfl
@[simp] theorem clearError_schedule (s : State) : (clearError s).schedule = s.schedule := rfl
@[simp] theorem clearError_reads (s : State) : (clearError s).reads = s.reads := rfl

/-! ### `setOrder` -/

@[simp] theorem setOrder_gt (g e : Bool) (s : State) : (setOrder g e s).gt = g := rfl
@[simp] theorem setOrder_eq (g e : Bool) (s : State) : (setOrder g e s).eq = e := rfl
@[simp] theorem setOrder_L (g e : Bool) (s : State) : (setOrder g e s).L = s.L := rfl
@[simp] theorem setOrder_f (g e : Bool) (s : State) : (setOrder g e s).f = s.f := rfl
@[simp] theorem setOrder_b (g e : Bool) (s : State) : (setOrder g e s).b = s.b := rfl
@[simp] theorem setOrder_phase (g e : Bool) (s : State) : (setOrder g e s).phase = s.phase := rfl
@[simp] theorem setOrder_lvl (g e : Bool) (s : State) : (setOrder g e s).lvl = s.lvl := rfl
@[simp] theorem setOrder_upc (g e : Bool) (s : State) : (setOrder g e s).upc = s.upc := rfl
@[simp] theorem setOrder_cmd (g e : Bool) (s : State) : (setOrder g e s).cmd = s.cmd := rfl
@[simp] theorem setOrder_done (g e : Bool) (s : State) : (setOrder g e s).done = s.done := rfl
@[simp] theorem setOrder_err (g e : Bool) (s : State) : (setOrder g e s).err = s.err := rfl
@[simp] theorem setOrder_errcode (g e : Bool) (s : State) : (setOrder g e s).errcode = s.errcode := rfl
@[simp] theorem setOrder_ev (g e : Bool) (s : State) : (setOrder g e s).ev = s.ev := rfl
@[simp] theorem setOrder_ieDone (g e : Bool) (s : State) : (setOrder g e s).ieDone = s.ieDone := rfl
@[simp] theorem setOrder_ieErr (g e : Bool) (s : State) : (setOrder g e s).ieErr = s.ieErr := rfl
@[simp] theorem setOrder_program (g e : Bool) (s : State) : (setOrder g e s).program = s.program := rfl
@[simp] theorem setOrder_schedule (g e : Bool) (s : State) : (setOrder g e s).schedule = s.schedule := rfl
@[simp] theorem setOrder_reads (g e : Bool) (s : State) : (setOrder g e s).reads = s.reads := rfl

/-! ### `setParity` -/

@[simp] theorem setParity_ev (e : Bool) (s : State) : (setParity e s).ev = e := rfl
@[simp] theorem setParity_L (e : Bool) (s : State) : (setParity e s).L = s.L := rfl
@[simp] theorem setParity_f (e : Bool) (s : State) : (setParity e s).f = s.f := rfl
@[simp] theorem setParity_b (e : Bool) (s : State) : (setParity e s).b = s.b := rfl
@[simp] theorem setParity_phase (e : Bool) (s : State) : (setParity e s).phase = s.phase := rfl
@[simp] theorem setParity_lvl (e : Bool) (s : State) : (setParity e s).lvl = s.lvl := rfl
@[simp] theorem setParity_upc (e : Bool) (s : State) : (setParity e s).upc = s.upc := rfl
@[simp] theorem setParity_cmd (e : Bool) (s : State) : (setParity e s).cmd = s.cmd := rfl
@[simp] theorem setParity_done (e : Bool) (s : State) : (setParity e s).done = s.done := rfl
@[simp] theorem setParity_err (e : Bool) (s : State) : (setParity e s).err = s.err := rfl
@[simp] theorem setParity_errcode (e : Bool) (s : State) : (setParity e s).errcode = s.errcode := rfl
@[simp] theorem setParity_gt (e : Bool) (s : State) : (setParity e s).gt = s.gt := rfl
@[simp] theorem setParity_eq (e : Bool) (s : State) : (setParity e s).eq = s.eq := rfl
@[simp] theorem setParity_ieDone (e : Bool) (s : State) : (setParity e s).ieDone = s.ieDone := rfl
@[simp] theorem setParity_ieErr (e : Bool) (s : State) : (setParity e s).ieErr = s.ieErr := rfl
@[simp] theorem setParity_program (e : Bool) (s : State) : (setParity e s).program = s.program := rfl
@[simp] theorem setParity_schedule (e : Bool) (s : State) : (setParity e s).schedule = s.schedule := rfl
@[simp] theorem setParity_reads (e : Bool) (s : State) : (setParity e s).reads = s.reads := rfl

/-! ### `writeCtrl` -/

@[simp] theorem writeCtrl_ieDone (v : Word) (s : State) : (writeCtrl v s).ieDone = v.getLsbD 0 := rfl
@[simp] theorem writeCtrl_ieErr (v : Word) (s : State) : (writeCtrl v s).ieErr = v.getLsbD 1 := rfl
@[simp] theorem writeCtrl_L (v : Word) (s : State) : (writeCtrl v s).L = s.L := rfl
@[simp] theorem writeCtrl_f (v : Word) (s : State) : (writeCtrl v s).f = s.f := rfl
@[simp] theorem writeCtrl_b (v : Word) (s : State) : (writeCtrl v s).b = s.b := rfl
@[simp] theorem writeCtrl_phase (v : Word) (s : State) : (writeCtrl v s).phase = s.phase := rfl
@[simp] theorem writeCtrl_lvl (v : Word) (s : State) : (writeCtrl v s).lvl = s.lvl := rfl
@[simp] theorem writeCtrl_upc (v : Word) (s : State) : (writeCtrl v s).upc = s.upc := rfl
@[simp] theorem writeCtrl_cmd (v : Word) (s : State) : (writeCtrl v s).cmd = s.cmd := rfl
@[simp] theorem writeCtrl_done (v : Word) (s : State) : (writeCtrl v s).done = s.done := rfl
@[simp] theorem writeCtrl_err (v : Word) (s : State) : (writeCtrl v s).err = s.err := rfl
@[simp] theorem writeCtrl_errcode (v : Word) (s : State) : (writeCtrl v s).errcode = s.errcode := rfl
@[simp] theorem writeCtrl_gt (v : Word) (s : State) : (writeCtrl v s).gt = s.gt := rfl
@[simp] theorem writeCtrl_eq (v : Word) (s : State) : (writeCtrl v s).eq = s.eq := rfl
@[simp] theorem writeCtrl_ev (v : Word) (s : State) : (writeCtrl v s).ev = s.ev := rfl
@[simp] theorem writeCtrl_program (v : Word) (s : State) : (writeCtrl v s).program = s.program := rfl
@[simp] theorem writeCtrl_schedule (v : Word) (s : State) : (writeCtrl v s).schedule = s.schedule := rfl
@[simp] theorem writeCtrl_reads (v : Word) (s : State) : (writeCtrl v s).reads = s.reads := rfl

/-! ### `ackDone` -/

@[simp] theorem ackDone_L (v : Word) (s : State) : (ackDone v s).L = s.L := by unfold ackDone; split <;> rfl
@[simp] theorem ackDone_f (v : Word) (s : State) : (ackDone v s).f = s.f := by unfold ackDone; split <;> rfl
@[simp] theorem ackDone_b (v : Word) (s : State) : (ackDone v s).b = s.b := by unfold ackDone; split <;> rfl
@[simp] theorem ackDone_phase (v : Word) (s : State) : (ackDone v s).phase = s.phase := by unfold ackDone; split <;> rfl
@[simp] theorem ackDone_lvl (v : Word) (s : State) : (ackDone v s).lvl = s.lvl := by unfold ackDone; split <;> rfl
@[simp] theorem ackDone_upc (v : Word) (s : State) : (ackDone v s).upc = s.upc := by unfold ackDone; split <;> rfl
@[simp] theorem ackDone_cmd (v : Word) (s : State) : (ackDone v s).cmd = s.cmd := by unfold ackDone; split <;> rfl
@[simp] theorem ackDone_err (v : Word) (s : State) : (ackDone v s).err = s.err := by unfold ackDone; split <;> rfl
@[simp] theorem ackDone_errcode (v : Word) (s : State) : (ackDone v s).errcode = s.errcode := by unfold ackDone; split <;> rfl
@[simp] theorem ackDone_gt (v : Word) (s : State) : (ackDone v s).gt = s.gt := by unfold ackDone; split <;> rfl
@[simp] theorem ackDone_eq (v : Word) (s : State) : (ackDone v s).eq = s.eq := by unfold ackDone; split <;> rfl
@[simp] theorem ackDone_ev (v : Word) (s : State) : (ackDone v s).ev = s.ev := by unfold ackDone; split <;> rfl
@[simp] theorem ackDone_ieDone (v : Word) (s : State) : (ackDone v s).ieDone = s.ieDone := by unfold ackDone; split <;> rfl
@[simp] theorem ackDone_ieErr (v : Word) (s : State) : (ackDone v s).ieErr = s.ieErr := by unfold ackDone; split <;> rfl
@[simp] theorem ackDone_program (v : Word) (s : State) : (ackDone v s).program = s.program := by unfold ackDone; split <;> rfl
@[simp] theorem ackDone_schedule (v : Word) (s : State) : (ackDone v s).schedule = s.schedule := by unfold ackDone; split <;> rfl
@[simp] theorem ackDone_reads (v : Word) (s : State) : (ackDone v s).reads = s.reads := by unfold ackDone; split <;> rfl

/-! ### `ackErr` -/

@[simp] theorem ackErr_L (v : Word) (s : State) : (ackErr v s).L = s.L := by unfold ackErr; split <;> rfl
@[simp] theorem ackErr_f (v : Word) (s : State) : (ackErr v s).f = s.f := by unfold ackErr; split <;> rfl
@[simp] theorem ackErr_b (v : Word) (s : State) : (ackErr v s).b = s.b := by unfold ackErr; split <;> rfl
@[simp] theorem ackErr_phase (v : Word) (s : State) : (ackErr v s).phase = s.phase := by unfold ackErr; split <;> rfl
@[simp] theorem ackErr_lvl (v : Word) (s : State) : (ackErr v s).lvl = s.lvl := by unfold ackErr; split <;> rfl
@[simp] theorem ackErr_upc (v : Word) (s : State) : (ackErr v s).upc = s.upc := by unfold ackErr; split <;> rfl
@[simp] theorem ackErr_cmd (v : Word) (s : State) : (ackErr v s).cmd = s.cmd := by unfold ackErr; split <;> rfl
@[simp] theorem ackErr_done (v : Word) (s : State) : (ackErr v s).done = s.done := by unfold ackErr; split <;> rfl
@[simp] theorem ackErr_gt (v : Word) (s : State) : (ackErr v s).gt = s.gt := by unfold ackErr; split <;> rfl
@[simp] theorem ackErr_eq (v : Word) (s : State) : (ackErr v s).eq = s.eq := by unfold ackErr; split <;> rfl
@[simp] theorem ackErr_ev (v : Word) (s : State) : (ackErr v s).ev = s.ev := by unfold ackErr; split <;> rfl
@[simp] theorem ackErr_ieDone (v : Word) (s : State) : (ackErr v s).ieDone = s.ieDone := by unfold ackErr; split <;> rfl
@[simp] theorem ackErr_ieErr (v : Word) (s : State) : (ackErr v s).ieErr = s.ieErr := by unfold ackErr; split <;> rfl
@[simp] theorem ackErr_program (v : Word) (s : State) : (ackErr v s).program = s.program := by unfold ackErr; split <;> rfl
@[simp] theorem ackErr_schedule (v : Word) (s : State) : (ackErr v s).schedule = s.schedule := by unfold ackErr; split <;> rfl
@[simp] theorem ackErr_reads (v : Word) (s : State) : (ackErr v s).reads = s.reads := by unfold ackErr; split <;> rfl

/-! ### `nextLevel` -/

@[simp] theorem nextLevel_lvl (s : State) : (nextLevel s).lvl = (s.lvl - 1) % 2 ^ Config.lvlW s.L := rfl
@[simp] theorem nextLevel_upc (s : State) : (nextLevel s).upc = 0 := rfl
@[simp] theorem nextLevel_L (s : State) : (nextLevel s).L = s.L := rfl
@[simp] theorem nextLevel_f (s : State) : (nextLevel s).f = s.f := rfl
@[simp] theorem nextLevel_b (s : State) : (nextLevel s).b = s.b := rfl
@[simp] theorem nextLevel_cmd (s : State) : (nextLevel s).cmd = s.cmd := rfl
@[simp] theorem nextLevel_done (s : State) : (nextLevel s).done = s.done := rfl
@[simp] theorem nextLevel_err (s : State) : (nextLevel s).err = s.err := rfl
@[simp] theorem nextLevel_errcode (s : State) : (nextLevel s).errcode = s.errcode := rfl
@[simp] theorem nextLevel_gt (s : State) : (nextLevel s).gt = s.gt := rfl
@[simp] theorem nextLevel_eq (s : State) : (nextLevel s).eq = s.eq := rfl
@[simp] theorem nextLevel_ev (s : State) : (nextLevel s).ev = s.ev := rfl
@[simp] theorem nextLevel_ieDone (s : State) : (nextLevel s).ieDone = s.ieDone := rfl
@[simp] theorem nextLevel_ieErr (s : State) : (nextLevel s).ieErr = s.ieErr := rfl
@[simp] theorem nextLevel_program (s : State) : (nextLevel s).program = s.program := rfl
@[simp] theorem nextLevel_schedule (s : State) : (nextLevel s).schedule = s.schedule := rfl
@[simp] theorem nextLevel_reads (s : State) : (nextLevel s).reads = s.reads := rfl

/-! ### `hostAfter` -/

@[simp] theorem hostAfter_L (t : Turn) (s : State) : (hostAfter t s).L = s.L := by unfold hostAfter; split <;> rfl
@[simp] theorem hostAfter_f (t : Turn) (s : State) : (hostAfter t s).f = s.f := by unfold hostAfter; split <;> rfl
@[simp] theorem hostAfter_b (t : Turn) (s : State) : (hostAfter t s).b = s.b := by unfold hostAfter; split <;> rfl
@[simp] theorem hostAfter_phase (t : Turn) (s : State) : (hostAfter t s).phase = s.phase := by unfold hostAfter; split <;> rfl
@[simp] theorem hostAfter_lvl (t : Turn) (s : State) : (hostAfter t s).lvl = s.lvl := by unfold hostAfter; split <;> rfl
@[simp] theorem hostAfter_upc (t : Turn) (s : State) : (hostAfter t s).upc = s.upc := by unfold hostAfter; split <;> rfl
@[simp] theorem hostAfter_cmd (t : Turn) (s : State) : (hostAfter t s).cmd = s.cmd := by unfold hostAfter; split <;> rfl
@[simp] theorem hostAfter_done (t : Turn) (s : State) : (hostAfter t s).done = s.done := by unfold hostAfter; split <;> rfl
@[simp] theorem hostAfter_err (t : Turn) (s : State) : (hostAfter t s).err = s.err := by unfold hostAfter; split <;> rfl
@[simp] theorem hostAfter_errcode (t : Turn) (s : State) : (hostAfter t s).errcode = s.errcode := by unfold hostAfter; split <;> rfl
@[simp] theorem hostAfter_gt (t : Turn) (s : State) : (hostAfter t s).gt = s.gt := by unfold hostAfter; split <;> rfl
@[simp] theorem hostAfter_eq (t : Turn) (s : State) : (hostAfter t s).eq = s.eq := by unfold hostAfter; split <;> rfl
@[simp] theorem hostAfter_ev (t : Turn) (s : State) : (hostAfter t s).ev = s.ev := by unfold hostAfter; split <;> rfl
@[simp] theorem hostAfter_ieDone (t : Turn) (s : State) : (hostAfter t s).ieDone = s.ieDone := by unfold hostAfter; split <;> rfl
@[simp] theorem hostAfter_ieErr (t : Turn) (s : State) : (hostAfter t s).ieErr = s.ieErr := by unfold hostAfter; split <;> rfl
@[simp] theorem hostAfter_schedule (t : Turn) (s : State) : (hostAfter t s).schedule = s.schedule := by unfold hostAfter; split <;> rfl

/-! ### `resetBlock` -/

@[simp] theorem resetBlock_f (s : State) : (resetBlock s).f = LaneRegs.fill 0 := rfl
@[simp] theorem resetBlock_b (s : State) : (resetBlock s).b = LaneRegs.fill 0 := rfl
@[simp] theorem resetBlock_phase (s : State) : (resetBlock s).phase = .idle := rfl
@[simp] theorem resetBlock_lvl (s : State) : (resetBlock s).lvl = 0 := rfl
@[simp] theorem resetBlock_upc (s : State) : (resetBlock s).upc = 0 := rfl
@[simp] theorem resetBlock_cmd (s : State) : (resetBlock s).cmd = 0 := rfl
@[simp] theorem resetBlock_done (s : State) : (resetBlock s).done = false := rfl
@[simp] theorem resetBlock_err (s : State) : (resetBlock s).err = false := rfl
@[simp] theorem resetBlock_errcode (s : State) : (resetBlock s).errcode = 0 := rfl
@[simp] theorem resetBlock_gt (s : State) : (resetBlock s).gt = false := rfl
@[simp] theorem resetBlock_eq (s : State) : (resetBlock s).eq = false := rfl
@[simp] theorem resetBlock_ev (s : State) : (resetBlock s).ev = false := rfl
@[simp] theorem resetBlock_ieDone (s : State) : (resetBlock s).ieDone = false := rfl
@[simp] theorem resetBlock_ieErr (s : State) : (resetBlock s).ieErr = false := rfl
@[simp] theorem resetBlock_L (s : State) : (resetBlock s).L = s.L := rfl
@[simp] theorem resetBlock_program (s : State) : (resetBlock s).program = s.program := rfl
@[simp] theorem resetBlock_schedule (s : State) : (resetBlock s).schedule = s.schedule := rfl
@[simp] theorem resetBlock_reads (s : State) : (resetBlock s).reads = s.reads := rfl

/-! ### Reading and writing a register -/

@[simp] theorem State.XW_f (s : State) : s.XW .f = 64 := rfl
@[simp] theorem State.XW_b (s : State) : s.XW .b = 64 * s.L := rfl
@[simp] theorem State.wr_XW (s : State) (ln ln' : Lane) (r : Reg) (v : Nat) : (s.wr ln r v).XW ln' = s.XW ln' := by
  cases ln <;> rfl
@[simp] theorem State.rd_f (s : State) (r : Reg) : s.rd .f r = (s.f.get r).toNat := rfl
@[simp] theorem State.rd_b (s : State) (r : Reg) : s.rd .b r = s.b.get r := rfl

/-- A register read depends on the lanes' registers alone. -/
theorem State.rd_congr {s t : State} (hf : t.f = s.f) (hb : t.b = s.b) (ln : Lane) (r : Reg) : t.rd ln r = s.rd ln r := by
  cases ln <;> simp [hf, hb]

/-- A register holds what was written, taken to its width. -/
theorem State.rd_wr_same (s : State) (ln : Lane) (r : Reg) (v : Nat) : (s.wr ln r v).rd ln r = v % 2 ^ s.XW ln := by
  cases ln <;> simp [State.wr]

/-- A value that fits is held exactly. -/
theorem State.rd_wr_fits {s : State} {ln : Lane} {r : Reg} {v : Nat} (h : v < 2 ^ s.XW ln) : (s.wr ln r v).rd ln r = v := by
  rw [State.rd_wr_same, Nat.mod_eq_of_lt h]

/-- Writing a register leaves the lane's other registers. -/
theorem State.rd_wr_other_reg (s : State) (ln : Lane) {r r' : Reg} (v : Nat) (h : r' ≠ r) :
    (s.wr ln r v).rd ln r' = s.rd ln r' := by
  cases ln <;> simp [State.wr, LaneRegs.get_set_ne _ _ h]

/-- Writing a register leaves the other lane. -/
theorem State.rd_wr_other_lane (s : State) {ln ln' : Lane} (r r' : Reg) (v : Nat) (h : ln' ≠ ln) :
    (s.wr ln r v).rd ln' r' = s.rd ln' r' := by
  cases ln <;> cases ln' <;> first | rfl | exact absurd rfl h

/-- A lane-F register is below `2^64`. -/
theorem State.rd_f_lt (s : State) (r : Reg) : s.rd .f r < 2 ^ 64 := (s.f.get r).isLt

end Sys2Proof.Machine
end

