-- ==== Sys2Proof/Laws/Ops.lean ====
section
/-! SUPPORT. One lemma for each shared operation, saying once everything it can do. -/

namespace Sys2Proof.Machine

/-! ### Outcomes -/

@[simp] theorem andThen_next (s : State) (g : State → Result) : andThen (.next s) g = g s := rfl

/-- If two steps in a row go on, the first went on to where the second began. -/
theorem andThen_eq_next {r : Result} {g : State → Result} {t : State} (h : andThen r g = .next t) :
    ∃ s, r = .next s ∧ g s = .next t := by
  cases r with
  | next s => exact ⟨s, rfl, h⟩
  | fault e => cases h
  | refused e => cases h

/-! ### Errors -/

/-- `raise` keeps a recorded error and records a first one. -/
theorem raise_cases (e : BusError) (s : State) :
    (s.err = true ∧ raise e s = s) ∨ (s.err = false ∧ raise e s = { s with err := true, errcode := e.code }) := by
  cases h : s.err
  · exact .inr ⟨rfl, by simp [raise, h]⟩
  · exact .inl ⟨rfl, by simp [raise, h]⟩

@[simp] theorem raise_err (e : BusError) (s : State) : (raise e s).err = true := by
  obtain ⟨h, h'⟩ | ⟨-, h'⟩ := raise_cases e s <;> simp [*]

theorem raise_errcode (e : BusError) (s : State) : (raise e s).errcode = if s.err then s.errcode else e.code := by
  obtain ⟨h, h'⟩ | ⟨h, h'⟩ := raise_cases e s <;> simp [h', h]

@[simp] theorem raise_rd (e : BusError) (s : State) (ln : Lane) (r : Reg) : (raise e s).rd ln r = s.rd ln r :=
  State.rd_congr (by simp) (by simp) ln r

@[simp] theorem raise_busy (e : BusError) (s : State) : (raise e s).busy = s.busy := by simp [State.busy]

/-! ### The backend port -/

/-- A unit answers unless a reducing code comes with modulus 0. -/
theorem backend_eq_some_iff (ln : Lane) (op : BeOp) (a b m : Nat) :
    (∃ ans, backend ln op a b m = some ans) ↔ ¬(op.reducing = true ∧ m = 0) := by
  unfold backend
  split
  · rename_i h; simpa using h
  · rename_i h
    have h' : ¬(op.reducing = true ∧ m = 0) := by simpa using h
    cases ln <;> simp [h']

/-! ### Issue and completion of a command -/

/-- A reducing command with modulus 0 is refused, any other accepted. -/
theorem issueChecked_cases (i : Instr) (ln : Lane) (accept : State → State) (s : State) :
    (i.reducing = true ∧ s.rd ln .M = 0 ∧ issueChecked i ln accept s = refuseCommand .invalidArgument s) ∨
    (¬(i.reducing = true ∧ s.rd ln .M = 0) ∧ issueChecked i ln accept s = accept s) := by
  unfold issueChecked
  split
  · rename_i h
    have h' : i.reducing = true ∧ s.rd ln .M = 0 := by simpa using h
    exact .inl ⟨h'.1, h'.2, rfl⟩
  · rename_i h
    exact .inr ⟨by simpa using h, rfl⟩

/-- A primitive command's micro-step, where it goes on, routes the unit's answer and completes. -/
theorem execMicroStep_eq_next {ln : Lane} {op : BeOp} {s t : State} (h : execMicroStep ln op s = .next t) :
    ∃ ans, backend ln op (s.rd ln .X) (s.rd ln .Y) (s.rd ln .M) = some ans ∧ t = complete (routeAnswer ln ans s) := by
  unfold execMicroStep at h
  split at h
  · rename_i ans hans
    exact ⟨ans, hans, by cases h; rfl⟩
  · cases h

/-- Everything a primitive command can go on to. -/
theorem primitiveCommand_eq_next {i : Instr} {ln : Lane} {op : BeOp} {s t : State}
    (h : primitiveCommand i ln op s = .next t) :
    (s.phase = .idle ∧ t = issueChecked i ln (acceptPrimitive i) s) ∨
    (s.phase = .exec ∧ ∃ ans, backend ln op (s.rd ln .X) (s.rd ln .Y) (s.rd ln .M) = some ans ∧
      t = complete (routeAnswer ln ans s)) := by
  unfold primitiveCommand at h
  split at h <;> rename_i hp
  · exact .inl ⟨hp, by cases h; rfl⟩
  · exact .inr ⟨hp, execMicroStep_eq_next h⟩
  all_goals cases h

/-- The meaning of every command is `NOP`'s, a primitive command's on its own lane and backend code, or the doubler's on its
own lane. -/
theorem exec_forms (i : Instr) :
    (i = .nop ∧ ∀ s, exec i s = execNop s) ∨
    (i.isFib = false ∧ i ≠ .nop ∧ ∃ op : BeOp, op.code = i.opCode ∧ op.reducing = i.reducing ∧
      ∀ s, exec i s = primitiveCommand i i.lane op s) ∨
    (i.isFib = true ∧ i.reducing = true ∧ ∀ s, exec i s = fibCommand i i.lane s) := by
  cases i
  case nop => exact .inl ⟨rfl, fun _ => rfl⟩
  case fibF => exact .inr (.inr ⟨rfl, rfl, fun _ => rfl⟩)
  case fibB => exact .inr (.inr ⟨rfl, rfl, fun _ => rfl⟩)
  case mulmodF => exact .inr (.inl ⟨rfl, by decide, .mulmod, rfl, rfl, fun _ => rfl⟩)
  case mulmodB => exact .inr (.inl ⟨rfl, by decide, .mulmod, rfl, rfl, fun _ => rfl⟩)
  case addmodF => exact .inr (.inl ⟨rfl, by decide, .addmod, rfl, rfl, fun _ => rfl⟩)
  case addmodB => exact .inr (.inl ⟨rfl, by decide, .addmod, rfl, rfl, fun _ => rfl⟩)
  case submodF => exact .inr (.inl ⟨rfl, by decide, .submod, rfl, rfl, fun _ => rfl⟩)
  case submodB => exact .inr (.inl ⟨rfl, by decide, .submod, rfl, rfl, fun _ => rfl⟩)
  case dblmodF => exact .inr (.inl ⟨rfl, by decide, .dblmod, rfl, rfl, fun _ => rfl⟩)
  case dblmodB => exact .inr (.inl ⟨rfl, by decide, .dblmod, rfl, rfl, fun _ => rfl⟩)
  case reduceF => exact .inr (.inl ⟨rfl, by decide, .reduce, rfl, rfl, fun _ => rfl⟩)
  case reduceB => exact .inr (.inl ⟨rfl, by decide, .reduce, rfl, rfl, fun _ => rfl⟩)
  case halveF => exact .inr (.inl ⟨rfl, by decide, .halve, rfl, rfl, fun _ => rfl⟩)
  case halveB => exact .inr (.inl ⟨rfl, by decide, .halve, rfl, rfl, fun _ => rfl⟩)
  case isevenF => exact .inr (.inl ⟨rfl, by decide, .iseven, rfl, rfl, fun _ => rfl⟩)
  case isevenB => exact .inr (.inl ⟨rfl, by decide, .iseven, rfl, rfl, fun _ => rfl⟩)
  case cmpF => exact .inr (.inl ⟨rfl, by decide, .cmp, rfl, rfl, fun _ => rfl⟩)
  case cmpB => exact .inr (.inl ⟨rfl, by decide, .cmp, rfl, rfl, fun _ => rfl⟩)

/-- What every command does from `IDLE`: one issue, which goes on (rule R221, cases 3 and 4). -/
theorem exec_idle (i : Instr) {s : State} (h : s.phase = .idle) :
    exec i s = .next (issueChecked i i.lane (if i.isFib then acceptFib i i.lane else acceptPrimitive i) s) := by
  cases i <;>
    simp [exec, execNop, execMulmodF, execAddmodF, execSubmodF, execDblmodF, execReduceF, execHalveF, execIsevenF, execCmpF,
      execFibF, execMulmodB, execAddmodB, execSubmodB, execDblmodB, execReduceB, execHalveB, execIsevenB, execCmpB, execFibB,
      primitiveCommand, fibCommand, h, Instr.isFib, Instr.lane, issueChecked, Instr.reducing]

/-! ### The doubler -/

/-- A controller's backend operation writes its value, or there is none. -/
theorem backendInto_eq_some {ln : Lane} {op : BeOp} {a b : Nat} {dst : Reg} {s t : State}
    (h : backendInto ln op a b dst s = some t) :
    ∃ r, backendValue ln op a b (s.rd ln .M) = some r ∧ t = s.wr ln dst r := by
  unfold backendInto at h
  cases hv : backendValue ln op a b (s.rd ln .M) with
  | none => simp [hv] at h
  | some r => exact ⟨r, rfl, by simpa [hv] using h.symm⟩

/-- Going on from a backend operation means that it answered. -/
theorem afterBackend_eq_next {r : Option State} {g : State → State} {t : State} (h : afterBackend r g = .next t) :
    ∃ s, r = some s ∧ t = g s := by
  cases r with
  | none => cases h
  | some s => exact ⟨s, rfl, by cases h; rfl⟩

/-! ### The bus and the clock edge -/

/-- What a write to a target can do (rule R226), the issue of a command apart. -/
theorem writeTarget_cases (x : Target) (v : Word) (s : State) :
    (x = .cmd ∧ writeTarget x v s = issueCommand v s) ∨
    (x ≠ .cmd ∧ ∃ t, writeTarget x v s = .next t ∧
      (t = s ∨ (x = .ctrl ∧ t = writeCtrl v s) ∨ (x = .status ∧ t = writeStatus v s) ∨
        ∃ ln r i, x = .lane ln r i ∧ r.hostWritable = true ∧ t = writeOperand ln r i v s)) := by
  cases x with
  | cmd => exact .inl ⟨rfl, rfl⟩
  | id => exact .inr ⟨by simp, s, rfl, .inl rfl⟩
  | reserved => exact .inr ⟨by simp, s, rfl, .inl rfl⟩
  | ctrl => exact .inr ⟨by simp, _, rfl, .inr (.inl ⟨rfl, rfl⟩)⟩
  | status => exact .inr ⟨by simp, _, rfl, .inr (.inr (.inl ⟨rfl, rfl⟩))⟩
  | lane ln r i =>
    refine .inr ⟨by simp, _, rfl, ?_⟩
    cases h : r.hostWritable
    · exact .inl rfl
    · exact .inr (.inr (.inr ⟨ln, r, i, rfl, h, rfl⟩))

/-- What a write of `CMD` can do (rule R221). -/
theorem issueCommand_cases (w : Word) (s : State) :
    (s.busy = true ∧ issueCommand w s = .next (raise .busyViolation s)) ∨
    (s.busy = false ∧ (∃ e, decode w = .error e) ∧ issueCommand w s = .next (refuseCommand .illegalCommand s)) ∨
    (s.busy = false ∧ ∃ i, decode w = .ok i ∧ issueCommand w s = exec i s) := by
  unfold issueCommand
  cases hb : s.busy with
  | true => exact .inl ⟨rfl, rfl⟩
  | false =>
    cases hd : decode w with
    | error e => exact .inr (.inl ⟨rfl, ⟨e, rfl⟩, rfl⟩)
    | ok i => exact .inr (.inr ⟨rfl, i, rfl, rfl⟩)

/-- Idle and not busy are one thing (rule R29). -/
theorem State.busy_eq_false_iff (s : State) : s.busy = false ↔ s.phase = .idle := by
  simp [State.busy]

theorem State.busy_eq_true_iff (s : State) : s.busy = true ↔ s.phase ≠ .idle := by
  simp [State.busy]

/-- A bus write always goes on (rule R96: no error response). -/
theorem busWrite_goes_on (a : Addr) (v : Word) (s : State) : ∃ t, busWrite a v s = .next t := by
  obtain ⟨-, h⟩ | ⟨-, t, h, -⟩ := writeTarget_cases (targetOf s.L a) v s
  · obtain ⟨-, h'⟩ | ⟨-, -, h'⟩ | ⟨hb, i, -, h'⟩ := issueCommand_cases v s
    · exact ⟨_, by rw [busWrite, h, h']⟩
    · exact ⟨_, by rw [busWrite, h, h']⟩
    · exact ⟨_, by rw [busWrite, h, h', exec_idle i ((s.busy_eq_false_iff).1 hb)]⟩
  · exact ⟨t, by rw [busWrite, h]⟩

/-- What one clock edge can do (rules R224, R270). -/
theorem clockEdge_cases (p : Pins) (tick : Bool) (s : State) :
    (p.rst = true ∧ clockEdge p tick s = .next (resetBlock s)) ∨
    (p.rst = false ∧ ¬(tick = true ∧ s.busy = true) ∧ clockEdge p tick s = busEdge p s) ∨
    (p.rst = false ∧ tick = true ∧ s.busy = true ∧ clockEdge p tick s = andThen (busEdge p s) microStep) := by
  unfold clockEdge
  cases hr : p.rst with
  | true => exact .inl ⟨rfl, rfl⟩
  | false =>
    cases ht : tick <;> cases hb : s.busy <;> simp

end Sys2Proof.Machine
end

