-- ==== Sys2Proof/Laws/Bus.lean ====
section
/-! SUPPORT. The laws of limbs, of the address map, of bus writes and of one clock cycle, each said once, and how a run of the
machine unfolds. -/

namespace Sys2Proof.Machine

open Sys2Proof.Safety

/-! ### Capacity -/

/-- The capacity is a matter of `L` and lane B alone. -/
theorem capacity_congr {s t : State} (hL : t.L = s.L) (hb : t.b = s.b) (h : Capacity s) : Capacity t :=
  ⟨by rw [hL]; exact h.one_le, by rw [hL]; exact h.le_256, by rw [hL, hb]; exact h.fits⟩

/-- Writing a register keeps the capacity. -/
theorem capacity_wr {s : State} (h : Capacity s) (ln : Lane) (r : Reg) (v : Nat) : Capacity (s.wr ln r v) := by
  refine ⟨by simpa using h.one_le, by simpa using h.le_256, fun r' => ?_⟩
  show (s.wr ln r v).rd .b r' < 2 ^ (64 * (s.wr ln r v).L)
  rw [State.wr_L]
  by_cases hl : ln = .b
  · subst hl
    by_cases hr : r' = r
    · subst hr
      rw [State.rd_wr_same]
      exact Nat.mod_lt _ (by positivity)
    · rw [State.rd_wr_other_reg _ _ _ hr]
      exact h.fits r'
  · rw [State.rd_wr_other_lane _ _ _ _ (fun h' => hl h'.symm)]
    exact h.fits r'

/-- `WIDE_B` bits hold every intermediate of lane B (rule R141). -/
theorem laneB_intermediates_fit {L x y m : Nat} (hL : 1 ≤ L) (hx : x < 2 ^ Config.widthB L) (hy : y < 2 ^ Config.widthB L)
    (hm : m < 2 ^ Config.widthB L) :
    x * y < 2 ^ Config.wideB L ∧ x + y < 2 ^ Config.wideB L ∧ 2 * x < 2 ^ Config.wideB L ∧
      x % m + m - y % m < 2 ^ Config.wideB L := by
  have e : 2 ^ Config.wideB L = 2 ^ Config.widthB L * 2 ^ Config.widthB L := by rw [Config.wideB, two_mul, pow_add]
  have h2 : 2 ≤ 2 ^ Config.widthB L := by
    calc 2 = 2 ^ 1 := by norm_num
      _ ≤ 2 ^ Config.widthB L := Nat.pow_le_pow_right (by norm_num) (by unfold Config.widthB; omega)
  have hr : x % m ≤ x := Nat.mod_le x m
  rw [e]
  generalize 2 ^ Config.widthB L = Q at *
  have hQ : 2 * Q ≤ Q * Q := Nat.mul_le_mul_right Q h2
  exact ⟨Nat.mul_lt_mul'' hx hy, by omega, by omega, by omega⟩

/-! ### Limbs -/

/-- A value around its limb `i`: the part above, the limb, the part below. -/
theorem limb_split (v i : Nat) :
    v = v / 2 ^ (64 * i) / 2 ^ 64 * 2 ^ 64 * 2 ^ (64 * i) + (limb v i).toNat * 2 ^ (64 * i) + v % 2 ^ (64 * i) := by
  have h1 := Nat.div_add_mod v (2 ^ (64 * i))
  have h2 := Nat.div_add_mod (v / 2 ^ (64 * i)) (2 ^ 64)
  have h3 : (limb v i).toNat = v / 2 ^ (64 * i) % 2 ^ 64 := by simp [limb]
  rw [h3]
  generalize 2 ^ (64 * i) = P at *
  generalize v / P / 2 ^ 64 = x at *
  generalize v / P % 2 ^ 64 = y at *
  rw [← h2] at h1
  generalize v % P = z at *
  rw [← h1]
  ring

/-- Replacing a limb keeps the part above and the part below. -/
theorem setLimb_eq (v i : Nat) (w : Word) :
    setLimb v i w = v / 2 ^ (64 * i) / 2 ^ 64 * 2 ^ 64 * 2 ^ (64 * i) + w.toNat * 2 ^ (64 * i) + v % 2 ^ (64 * i) := by
  have h := limb_split v i
  unfold setLimb
  omega

/-- The replaced limb is the new word. -/
@[simp] theorem limb_setLimb_same (v i : Nat) (w : Word) : limb (setLimb v i w) i = w := by
  apply BitVec.eq_of_toNat_eq
  have hp : 0 < 2 ^ (64 * i) := by positivity
  have hz : v % 2 ^ (64 * i) < 2 ^ (64 * i) := Nat.mod_lt _ hp
  simp only [limb, setLimb_eq, BitVec.toNat_ofNat]
  generalize 2 ^ (64 * i) = P at *
  generalize v / P / 2 ^ 64 = x
  generalize v % P = z at *
  have h : x * 2 ^ 64 * P + w.toNat * P + z = P * (2 ^ 64 * x + w.toNat) + z := by ring
  have := w.isLt
  rw [h, Nat.mul_add_div hp, Nat.div_eq_of_lt hz]
  omega

/-- Every other limb is as it was. -/
theorem limb_setLimb_other (x : Nat) {i j : Nat} (w : Word) (h : j ≠ i) : limb (setLimb x i w) j = limb x j := by
  apply BitVec.eq_of_toNat_eq
  have hs := limb_split x i
  simp only [limb, setLimb_eq, BitVec.toNat_ofNat]
  have hw := w.isLt
  have hl := (limb x i).isLt
  generalize (limb x i).toNat = y at *
  generalize hx : x / 2 ^ (64 * i) / 2 ^ 64 = u at *
  have hz : x % 2 ^ (64 * i) < 2 ^ (64 * i) := Nat.mod_lt _ (by positivity)
  generalize x % 2 ^ (64 * i) = z at *
  have hc : ∀ c, u * 2 ^ 64 * 2 ^ (64 * i) + c * 2 ^ (64 * i) + z = 2 ^ (64 * i) * (2 ^ 64 * u + c) + z := fun c => by ring
  rw [hc] at *
  rcases Nat.lt_or_gt_of_ne h with hj | hj
  · obtain ⟨d, rfl⟩ : ∃ d, i = j + 1 + d := ⟨i - j - 1, by omega⟩
    have e : 2 ^ (64 * (j + 1 + d)) = 2 ^ (64 * j) * (2 ^ 64 * 2 ^ (64 * d)) := by
      rw [← pow_add, ← pow_add, show 64 * j + (64 + 64 * d) = 64 * (j + 1 + d) by ring]
    have hq : ∀ c, (2 ^ (64 * (j + 1 + d)) * c + z) / 2 ^ (64 * j) % 2 ^ 64 = z / 2 ^ (64 * j) % 2 ^ 64 := fun c => by
      rw [e, mul_assoc, Nat.mul_add_div (by positivity), mul_assoc, Nat.mul_add_mod]
    rw [hq, hs, hq]
  · obtain ⟨d, rfl⟩ : ∃ d, j = i + 1 + d := ⟨j - i - 1, by omega⟩
    have e : 2 ^ (64 * (i + 1 + d)) = 2 ^ (64 * i) * (2 ^ 64 * 2 ^ (64 * d)) := by
      rw [← pow_add, ← pow_add, show 64 * i + (64 + 64 * d) = 64 * (i + 1 + d) by ring]
    have hq : ∀ c, c < 2 ^ 64 → (2 ^ (64 * i) * (2 ^ 64 * u + c) + z) / 2 ^ (64 * (i + 1 + d)) = u / 2 ^ (64 * d) :=
      fun c hc => by
        rw [e, ← Nat.div_div_eq_div_mul, Nat.mul_add_div (by positivity), Nat.div_eq_of_lt hz, add_zero,
          ← Nat.div_div_eq_div_mul, Nat.mul_add_div (by positivity), Nat.div_eq_of_lt hc, add_zero]
    rw [hq _ hw]
    conv_rhs => rw [hs]
    rw [hq _ hl]

/-- A value of `L` limbs stays one when one of them is replaced. -/
theorem setLimb_lt {v i L : Nat} (w : Word) (hv : v < 2 ^ (64 * L)) (hi : i < L) : setLimb v i w < 2 ^ (64 * L) := by
  obtain ⟨d, rfl⟩ : ∃ d, L = i + 1 + d := ⟨L - i - 1, by omega⟩
  have e : 2 ^ (64 * (i + 1 + d)) = 2 ^ (64 * i) * (2 ^ 64 * 2 ^ (64 * d)) := by
    rw [← pow_add, ← pow_add, show 64 * i + (64 + 64 * d) = 64 * (i + 1 + d) by ring]
  have hp : 0 < 2 ^ (64 * i) := by positivity
  rw [e] at hv
  have h1 : v / 2 ^ (64 * i) < 2 ^ 64 * 2 ^ (64 * d) := Nat.div_lt_of_lt_mul hv
  have h2 : v / 2 ^ (64 * i) / 2 ^ 64 < 2 ^ (64 * d) := Nat.div_lt_of_lt_mul h1
  have hz : v % 2 ^ (64 * i) < 2 ^ (64 * i) := Nat.mod_lt _ hp
  rw [setLimb_eq, e]
  have hw := w.isLt
  generalize v / 2 ^ (64 * i) / 2 ^ 64 = x at *
  generalize v % 2 ^ (64 * i) = z at *
  generalize 2 ^ (64 * i) = P at *
  generalize 2 ^ (64 * d) = Q at *
  have h3 : x * 2 ^ 64 + w.toNat + 1 ≤ 2 ^ 64 * Q := by omega
  calc x * 2 ^ 64 * P + w.toNat * P + z < (x * 2 ^ 64 + w.toNat + 1) * P := by nlinarith
    _ ≤ 2 ^ 64 * Q * P := Nat.mul_le_mul_right _ h3
    _ = P * (2 ^ 64 * Q) := by ring

/-! ### The address map -/

/-- Limb `i` of the lane-B register number `j` stands at `0x100·(j + 1) + i` (rule R61). -/
theorem targetOf_laneB {L i j : Nat} {a : Addr} {r : Reg} (hi : i < L) (h256 : i < 256)
    (ha : a.toNat = 256 * (j + 1) + i) (hr : regOfIndex j = some r) : targetOf L a = .lane .b r i := by
  have h1 : a.toNat / 256 - 1 = j := by omega
  have h2 : a.toNat % 256 = i := by omega
  unfold targetOf
  split <;> try omega
  rw [if_neg (by omega), targetB, h1, hr, h2]
  simp [hi]

/-- The lane-F register number `j` stands at `0x010 + j` (rule R61). -/
theorem targetOf_laneF {L j : Nat} {a : Addr} {r : Reg} (hj : j < 5) (ha : a.toNat = 16 + j) (hr : regOfIndex j = some r) :
    targetOf L a = .lane .f r 0 := by
  have h1 : a.toNat - 16 = j := by omega
  unfold targetOf
  split <;> try omega
  rw [if_pos (by omega), targetF, if_neg (by omega), h1, hr]

/-- No register has a number above 4. -/
theorem regOfIndex_none {k : Nat} (h : 5 ≤ k) : regOfIndex k = none := by
  unfold regOfIndex
  split <;> first | omega | rfl

/-- A reserved address names nothing (rules R61, R65). -/
theorem targetOf_reserved {L : Nat} {a : Addr} (h : ReservedAddr L a.toNat) : targetOf L a = .reserved := by
  unfold ReservedAddr at h
  unfold targetOf
  split <;> try omega
  split
  · unfold targetF
    split
    · rfl
    · rw [regOfIndex_none (by omega)]
  · unfold targetB
    by_cases h5 : a.toNat < 0x600
    · split
      · rw [if_neg (by omega)]
      · rfl
    · rw [regOfIndex_none (by omega)]

/-! ### Bus writes and clock cycles -/

/-- An operand write while idle (rule R228). -/
theorem busWrite_operand_idle {s : State} {ln : Lane} {r : Reg} {i : Nat} {a : Addr} (v : Word) (hp : s.phase = .idle)
    (hw : r.hostWritable = true) (ht : targetOf s.L a = .lane ln r i) :
    busWrite a v s = .next (s.wr ln r (setLimb (s.rd ln r) i v)) := by
  have hb : s.busy = false := s.busy_eq_false_iff.2 hp
  simp [busWrite, ht, writeTarget, hw, writeOperand, hb]

/-- Two states with one and the same block, but for the error record, `DONE` and `CTRL`. -/
structure SameCore (t s : State) : Prop where
  L    : t.L = s.L
  f    : t.f = s.f
  b    : t.b = s.b
  phase : t.phase = s.phase
  lvl  : t.lvl = s.lvl
  upc  : t.upc = s.upc
  cmd  : t.cmd = s.cmd
  sched : t.schedule = s.schedule

theorem SameCore.refl (s : State) : SameCore s s := ⟨rfl, rfl, rfl, rfl, rfl, rfl, rfl, rfl⟩

theorem SameCore.trans {r s t : State} (h : SameCore t s) (g : SameCore s r) : SameCore t r :=
  ⟨h.L.trans g.L, h.f.trans g.f, h.b.trans g.b, h.phase.trans g.phase, h.lvl.trans g.lvl, h.upc.trans g.upc,
    h.cmd.trans g.cmd, h.sched.trans g.sched⟩

theorem SameCore.rd {s t : State} (h : SameCore t s) (ln : Lane) (r : Reg) : t.rd ln r = s.rd ln r :=
  State.rd_congr h.f h.b ln r

theorem SameCore.busy {s t : State} (h : SameCore t s) : t.busy = s.busy := by simp [State.busy, h.phase]

theorem sameCore_raise (e : BusError) (s : State) : SameCore (raise e s) s := by
  obtain ⟨-, h⟩ | ⟨-, h⟩ := raise_cases e s <;> rw [h] <;> exact ⟨rfl, rfl, rfl, rfl, rfl, rfl, rfl, rfl⟩

theorem sameCore_writeStatus (v : Word) (s : State) : SameCore (writeStatus v s) s := by
  unfold writeStatus ackErr ackDone clearError
  split <;> split <;> exact ⟨rfl, rfl, rfl, rfl, rfl, rfl, rfl, rfl⟩

/-- While busy a bus write goes on and touches the error record, `DONE` and `CTRL` alone (rules R37, R227). -/
theorem busWrite_busy {s : State} (a : Addr) (v : Word) (hb : s.busy = true) :
    ∃ t, busWrite a v s = .next t ∧ SameCore t s := by
  unfold busWrite
  obtain ⟨-, h⟩ | ⟨-, t, h, h'⟩ := writeTarget_cases (targetOf s.L a) v s
  · rw [h]
    exact ⟨_, by rw [issueCommand, if_pos hb], sameCore_raise _ _⟩
  · refine ⟨t, h, ?_⟩
    obtain rfl | ⟨-, rfl⟩ | ⟨-, rfl⟩ | ⟨ln, r, i, -, -, rfl⟩ := h'
    · exact .refl _
    · exact ⟨rfl, rfl, rfl, rfl, rfl, rfl, rfl, rfl⟩
    · exact sameCore_writeStatus _ _
    · rw [writeOperand, if_pos hb]
      exact sameCore_raise _ _

/-- The host's side of a cycle leaves the block alone. -/
theorem sameCore_hostAfter (t : Turn) (s : State) : SameCore (hostAfter t s) s := by
  unfold hostAfter
  split <;> exact ⟨rfl, rfl, rfl, rfl, rfl, rfl, rfl, rfl⟩

@[simp] theorem turnPins_rst (t : Turn) (s : State) : (turnPins t s).rst = t.rst := by
  unfold turnPins
  split
  · unfold accessPins
    split <;> rfl
  · rfl

/-- A cycle of a busy core without a reset: whatever the host does leaves the core's part as it is, and then the micro-step
takes effect if the turn says so (rule R224). -/
theorem runTurn_busy {t : Turn} {s : State} (hb : s.busy = true) (hr : t.rst = false) :
    ∃ u, SameCore u s ∧ runTurn t s = if t.tick then microStep u else .next u := by
  have hh := sameCore_hostAfter t s
  have hb' : (hostAfter t s).busy = true := by rw [hh.busy, hb]
  obtain ⟨u, hu, hs⟩ : ∃ u, busEdge (turnPins t s) (hostAfter t s) = .next u ∧ SameCore u (hostAfter t s) := by
    unfold busEdge
    split
    · exact busWrite_busy _ _ hb'
    · exact ⟨_, rfl, .refl _⟩
  refine ⟨u, hs.trans hh, ?_⟩
  unfold runTurn clockEdge
  rw [turnPins_rst, hr, hu, hb']
  cases t.tick <;> simp

/-! ### Runs -/

/-- A run of no step. -/
theorem core_run_zero (s : State) : core.run 0 s = .next s := rfl

/-- A run that begins with a step that goes on. -/
theorem core_run_succ {n : Nat} {s u : State} (h : step s = .next u) : core.run (n + 1) s = core.run n u := by
  simp only [Host.Core.run]
  have h' : core.step s = .next u := h
  rw [h']

/-- A run that goes on began with a step that goes on. -/
theorem core_run_succ_eq_next {n : Nat} {s t : State} (h : core.run (n + 1) s = .next t) :
    ∃ u, step s = .next u ∧ core.run n u = .next t := by
  simp only [Host.Core.run] at h
  have h' : core.step s = step s := rfl
  rw [h'] at h
  cases hs : step s with
  | next u =>
    rw [hs] at h
    exact ⟨u, rfl, h⟩
  | fault e =>
    rw [hs] at h
    cases h
  | refused e =>
    rw [hs] at h
    cases h

end Sys2Proof.Machine
end

