-- ==== Sys2Proof/Tests/Slice0.lean ====
section
/-! SUPPORT. Tests, each a named theorem, with expected values from the spec's words and vectors (`95_test_vectors.md`); and, for
each obligation with hypotheses, a witness that meets them. -/

namespace Sys2Proof.Tests.Slice0

open Sys2Proof Sys2Proof.Machine Sys2Proof.Safety

/-! ### Helpers -/

/-- The block with `L` = 2 right after reset. -/
def blk : State := State.resetWith 2

/-- Lane F with these operands. -/
def withF (n m x y : Word) (s : State) : State := { s with f := { s.f with N := n, M := m, X := x, Y := y } }

/-- Lane B with these operands. -/
def withB (n m x y : Nat) (s : State) : State := { s with b := { s.b with N := n, M := m, X := x, Y := y } }

/-- The command in flight, in `EXEC`. -/
def inExec (i : Instr) (s : State) : State := { s with phase := .exec, cmd := encode i }

/-- What a step left, seen through `g`. -/
def after {α : Type} (r : Result) (g : State → α) : Option α :=
  match r with
  | .next s => some (g s)
  | .fault _ => none
  | .refused _ => none

/-- `F.R` and `STATUS` after the micro-step of a lane-F command (columns 5 and 6 of the vectors). -/
def runF (i : Instr) (x y m : Word) : Option (Word × Word) :=
  after (exec i (inExec i (withF 0 m x y blk))) (fun s => (s.f.R, statusWord s))

/-- `B.R` and `STATUS` after the micro-step of a lane-B command. -/
def runB (i : Instr) (x y m : Nat) : Option (Nat × Word) :=
  after (exec i (inExec i (withB 0 m x y blk))) (fun s => (s.b.R, statusWord s))

/-! ### Well-formedness (rules R90, R93, R22, R101) -/

theorem test_wf_refuses_reserved_bits : ({ op := 9, lane := 0, rsv := 1 } : CmdFields).wf = false := by decide
theorem test_wf_refuses_reserved_op : ({ op := 10, lane := 1, rsv := 0 } : CmdFields).wf = false := by decide
theorem test_wf_refuses_nop_with_lane : ({ op := 0, lane := 1, rsv := 0 } : CmdFields).wf = false := by decide
theorem test_wf_takes_last_code : ({ op := 9, lane := 1, rsv := 0 } : CmdFields).wf = true := by decide
theorem test_wf_refuses_limb_L : (HostLine.rd (.lane .b .X 2)).wf 2 = false := by decide
theorem test_wf_refuses_lane_F_limb_1 : (HostLine.wr (.lane .f .X 1) 0).wf 2 = false := by decide
theorem test_wf_refuses_working_register : (HostLine.rd (.lane .f .K 0)).wf 2 = false := by decide
theorem test_wf_refuses_wide_LDB : (HostLine.ldb .M (2 ^ 128)).wf 2 = false := by decide
theorem test_wf_takes_widest_LDB : (HostLine.ldb .M (2 ^ 128 - 1)).wf 2 = true := by decide
theorem test_wf_refuses_LDB_of_result : (HostLine.ldb .R 0).wf 2 = false := by decide

/-! ### Decoding: words written out from rule R92, one line a family, and the refused words of rule R93 -/

theorem test_decode_system : decode 0b00000 = .ok .nop := rfl
theorem test_decode_reducing_F : decode 0b00001 = .ok .mulmodF ∧ decode 0b00010 = .ok .addmodF ∧ decode 0b00011 = .ok .submodF ∧
    decode 0b00100 = .ok .dblmodF ∧ decode 0b00101 = .ok .reduceF := ⟨rfl, rfl, rfl, rfl, rfl⟩
theorem test_decode_index_F : decode 0b00110 = .ok .halveF ∧ decode 0b00111 = .ok .isevenF ∧ decode 0b01000 = .ok .cmpF :=
  ⟨rfl, rfl, rfl⟩
theorem test_decode_reducing_B : decode 0b10001 = .ok .mulmodB ∧ decode 0b10010 = .ok .addmodB ∧ decode 0b10011 = .ok .submodB ∧
    decode 0b10100 = .ok .dblmodB ∧ decode 0b10101 = .ok .reduceB := ⟨rfl, rfl, rfl, rfl, rfl⟩
theorem test_decode_index_B : decode 0b10110 = .ok .halveB ∧ decode 0b10111 = .ok .isevenB ∧ decode 0b11000 = .ok .cmpB :=
  ⟨rfl, rfl, rfl⟩
theorem test_decode_doubler : decode 0b01001 = .ok .fibF ∧ decode 0b11001 = .ok .fibB := ⟨rfl, rfl⟩
theorem test_decode_refuses_reserved_ops : decode 0x0A = .error .reservedOp ∧ decode 0x0F = .error .reservedOp ∧
    decode 0x1A = .error .reservedOp ∧ decode 0x1F = .error .reservedOp := ⟨rfl, rfl, rfl, rfl⟩
theorem test_decode_refuses_nop_with_lane : decode 0x10 = .error .nopWithLane := rfl
theorem test_decode_refuses_high_bits : decode 0x20 = .error .reservedBits ∧ decode 0x0000000100000001 = .error .reservedBits ∧
    decode 0x8000000000000009 = .error .reservedBits := ⟨rfl, rfl, rfl⟩
theorem test_table_word : decodeTableWord 64 0x19 = some .fibB ∧ decodeTableWord 64 0x10 = none := by decide

/-! ### One micro-step of each primitive command (vectors 2.1 to 2.7) -/

theorem test_nop : after (exec .nop (inExec .nop blk)) statusWord = some 0x002 := by decide
theorem test_mulmodF_wide : runF .mulmodF 0xFFFFFFFFFFFFFFFE 0xFFFFFFFFFFFFFFFE 0xFFFFFFFFFFFFFFFF = some (1, 0x002) := by decide
theorem test_mulmodF : runF .mulmodF 0x123456789ABCDEF0 0x0FEDCBA987654321 0xFFFFFFFFFFFFFFC5 =
    some (0x650B76B7E0002926, 0x002) := by decide
theorem test_addmodF_wide : runF .addmodF 0xFFFFFFFFFFFFFFFE 0xFFFFFFFFFFFFFFFE 0xFFFFFFFFFFFFFFFF =
    some (0xFFFFFFFFFFFFFFFD, 0x002) := by decide
theorem test_submodF_borrow : runF .submodF 3 4 5 = some (4, 0x002) := by decide
theorem test_submodF_unreduced : runF .submodF 2 0xFFFFFFFFFFFFFFFF 10 = some (7, 0x002) := by decide
theorem test_dblmodF_wide : runF .dblmodF 0x8000000000000000 0 0xFFFFFFFFFFFFFFFF = some (1, 0x002) := by decide
theorem test_reduceF : runF .reduceF 0x00000002EE333961 0 0x3B9ACA07 = some (0x22F1C10D, 0x002) := by decide
theorem test_halveF : runF .halveF 0xFFFFFFFFFFFFFFFF 0 0 = some (0x7FFFFFFFFFFFFFFF, 0x002) := by decide
theorem test_isevenF : runF .isevenF 0 0 0 = some (0, 0x402) ∧ runF .isevenF 0xFFFFFFFFFFFFFFFF 0 0 = some (0, 0x002) := by decide
theorem test_cmpF_unsigned : runF .cmpF 0x8000000000000000 0x7FFFFFFFFFFFFFFF 0 = some (0, 0x102) ∧
    runF .cmpF 7 7 0 = some (0, 0x202) ∧ runF .cmpF 3 5 0 = some (0, 0x002) := by decide
theorem test_mulmodB : runB .mulmodB 0x0123456789ABCDEF0FEDCBA987654321 0xFEDCBA98765432100123456789ABCDEF
    0x7FFFFFFFFFFFFFFFFFFFFFFFFFFFFFFF = some (0x2CEABC7770FE7529864B0D897A9CAB62, 0x002) := by decide
theorem test_addmodB_carry : runB .addmodB 0xFFFFFFFFFFFFFFFF 1 0xFFFFFFFFFFFFFFFFFFFFFFFFFFFFFFFF =
    some (0x10000000000000000, 0x002) := by decide
theorem test_submodB_borrow : runB .submodB 0x10000000000000000 1 0xFFFFFFFFFFFFFFFFFFFFFFFFFFFFFFFF =
    some (0xFFFFFFFFFFFFFFFF, 0x002) := by decide
theorem test_dblmodB_wide : runB .dblmodB 0x80000000000000000000000000000000 0 0xFFFFFFFFFFFFFFFFFFFFFFFFFFFFFFFF =
    some (1, 0x002) := by decide
theorem test_reduceB : runB .reduceB 0x10000000000000000 0 0xFFFFFFFFFFFFFFFF = some (1, 0x002) := by decide
theorem test_halveB_crosses_limbs : runB .halveB 0x10000000000000000 0 0 = some (0x8000000000000000, 0x002) := by decide
theorem test_isevenB_limb_0_only : runB .isevenB 0x10000000000000001 0 0 = some (0, 0x002) ∧
    runB .isevenB 0x10000000000000000 0 0 = some (0, 0x402) := by decide
theorem test_cmpB_upper_limb_decides : runB .cmpB 0x10000000000000000 0xFFFFFFFFFFFFFFFF 0 = some (0, 0x102) := by decide

/-! ### The doubler (T-FIB-10 of 2.10; 2.9 and rule R190 for lane B) -/

/-- Lane F in the last level of the index 10 modulo 5, before micro-step 6: (A, B) = P(5), C = F(10) mod 5, D = F(11) mod 5. -/
def fibLast : State :=
  { withF 10 5 0 0 blk with
    f := { N := 10, M := 5, X := 0, Y := 0, R := 0, K := 0, A := 0, B := 3, C := 0, D := 4, T := 0 }
    phase := .asc, lvl := 1, upc := 6, cmd := 0x09 }

theorem test_fibF_selects_even : after (exec .fibF fibLast) (fun s => (s.f.A, s.f.B, s.phase, s.lvl)) = some (0, 4, .fin, 0) := by decide
theorem test_fibF_counts_down : after (exec .fibF { withF 10 5 0 0 blk with f := { blk.f with N := 10, M := 5, K := 10 }, phase := .desc })
    (fun s => (s.f.K, s.lvl, s.phase)) = some (5, 1, .desc) := by decide
theorem test_fibB_selects_odd : after (exec .fibB { blk with b := { blk.b with N := 3, M := 7, A := 1, B := 1, C := 1, D := 2 }, phase := .asc, lvl := 1, upc := 6, cmd := 0x19 })
    (fun s => (s.b.A, s.b.B, s.phase)) = some (2, 3, .fin) := by decide
theorem test_fibB_base_modulus_one : after (exec .fibB { blk with b := { blk.b with N := 1, M := 1 }, phase := .base, lvl := 1, cmd := 0x19 })
    (fun s => (s.b.A, s.b.B, s.phase)) = some (0, 0, .asc) := by decide

/-- ⌈log2 65⌉ = 7 and ⌈log2 129⌉ = 8 (rule R5). -/
theorem test_level_width : Config.lvlW 1 = 7 ∧ Config.lvlW 2 = 8 := by decide

/-! ### Bus, errors, interrupt (programs P4, P5, P7) -/

theorem test_id : busRead blk 0x000 = 0x4646494200010002 := by decide
theorem test_zero_modulus_refused : after (busWrite 0x003 0x09 { blk with done := true }) statusWord = some 0x014 := by decide
theorem test_illegal_word_refused : after (busWrite 0x003 0x10 blk) statusWord = some 0x024 := by decide
theorem test_busy_write_dropped : after (busWrite 0x011 7 (inExec .cmpF blk)) (fun s => (statusWord s, s.f.M)) = some (0x035, 0) := by decide
theorem test_first_error_kept : after (busWrite 0x003 0x0A { blk with err := true, errcode := 3 }) statusWord = some 0x034 := by decide
theorem test_clear_errors : after (busWrite 0x002 0x4 { blk with err := true, errcode := 2, done := true }) statusWord = some 0x002 := by decide
theorem test_irq_on_done : ({ blk with done := true, ieDone := true } : State).irq = true ∧
    ({ blk with done := true, ieErr := true } : State).irq = false := by decide
theorem test_limb_write : after (busWrite 0x201 5 (withB 0 0xFFFFFFFFFFFFFFFFFFFFFFFFFFFFFFFF 0 0 blk)) (fun s => s.b.M) =
    some 0x5FFFFFFFFFFFFFFFF := by decide
theorem test_limb_L_is_reserved : after (busWrite 0x202 5 blk) (fun s => (s.b.M, busRead s 0x202)) = some (0, 0) := by decide
theorem test_result_is_read_only : after (busWrite 0x014 5 blk) (fun s => s.f.R) = some 0 := by decide
theorem test_placed_word_runs : after (step (blk.withFetchWord 64 0x16)) (fun s => (s.cmd, s.phase)) = some (0x16, .exec) := by decide
theorem test_reset_in_a_cycle : after (runTurn { rst := true, host := false, tick := true } fibLast) (fun s => (s.f.B, s.phase, s.upc)) =
    some (0, .idle, 0) := by decide

/-! ### Witnesses: for each statement with hypotheses, a state and operands that meet them all together -/

/-- A turn without reset. -/
def turn (host tick : Bool) : Turn := { rst := false, host := host, tick := tick }

theorem capacity_of {s : State} (hL : s.L = 2) (h : ∀ r, s.b.get r < 2 ^ 128) : Capacity s :=
  ⟨by omega, by omega, fun r => by rw [hL]; exact h r⟩

theorem capacity_blk : Capacity blk := capacity_of rfl (by intro r; cases r <;> decide)

/-- Lane B at the edge of its capacity. -/
def wideB : State := withB (2 ^ 128 - 1) (2 ^ 128 - 1) (2 ^ 128 - 1) (2 ^ 128 - 1) blk

theorem capacity_wideB : Capacity wideB := capacity_of rfl (by intro r; cases r <;> decide)

/-- Both lanes with the index 10 and the modulus 5. -/
def ready : State := withF 10 5 3 4 (withB 10 5 3 4 blk)

theorem capacity_ready : Capacity ready := capacity_of rfl (by intro r; cases r <;> decide)

/-- `FIB` of the index 1 modulo 5 on either lane, in `FIN`: P(1) = (1, 1). -/
def fibFinal (ln : Lane) : State :=
  { ready with
    f := { ready.f with N := 1, A := 1, B := 1 }, b := { ready.b with N := 1, A := 1, B := 1 }
    phase := .fin, cmd := encode (fibOf ln) }

/-- `FIB` of the index 2 modulo 5 on either lane, in its last level before micro-step 4: k2 = 1, C = F(2), T = 1·1. -/
def fibLevel (ln : Lane) : State :=
  { ready with
    f := { ready.f with N := 2, A := 1, B := 1, C := 1, T := 1 }, b := { ready.b with N := 2, A := 1, B := 1, C := 1, T := 1 }
    phase := .asc, lvl := 1, upc := 4, cmd := encode (fibOf ln) }

theorem fibRun_fibFinal (ln : Lane) : FibRun ln (fibFinal ln) := by
  cases ln
  · exact ⟨rfl, by decide, by refine ⟨rfl, ?_⟩; decide⟩
  · exact ⟨rfl, by decide, by refine ⟨rfl, ?_⟩; decide⟩

theorem fibRun_fibLevel (ln : Lane) : FibRun ln (fibLevel ln) := by
  cases ln
  · exact ⟨rfl, by decide, by refine ⟨by decide, by decide, by decide, ?_, ?_⟩ <;> decide⟩
  · exact ⟨rfl, by decide, by refine ⟨by decide, by decide, by decide, ?_, ?_⟩ <;> decide⟩

theorem capacity_fibFinal (ln : Lane) : Capacity (fibFinal ln) :=
  capacity_of rfl (by intro r; cases ln <;> cases r <;> decide)

theorem capacity_fibLevel (ln : Lane) : Capacity (fibLevel ln) :=
  capacity_of rfl (by intro r; cases ln <;> cases r <;> decide)

/-- `FIB.F` of the index 10 modulo 5, in `DESC` after two of its four halvings. -/
def fibDown : State :=
  { ready with f := { ready.f with K := 2 }, phase := .desc, lvl := 2, cmd := encode .fibF }

/-- The invariant holds in a running `FIB`. -/
theorem inv_fibLevel : Inv (fibLevel .f) := by
  have hlat : ∀ i, Latched (fibLevel .f) i → i = .fibF := by
    intro i h
    have h' : (Except.ok Instr.fibF : Except DecodeError Instr) = .ok i := h
    cases h'; rfl
  constructor
  case toRule36 =>
    constructor
    case busy_not_done => intro; rfl
    case no_code => intro; rfl
    case cmd_bits => decide
    case fib_phase => intro; decide
    case exec_phase => intro h; cases h
    all_goals intro i hi; obtain rfl := hlat i hi; decide
  case capacity => exact capacity_fibLevel .f
  case cmd_legal => exact ⟨.fibF, rfl⟩
  case code => intro h; cases h
  case flags => decide
  case level_zero => decide
  case upc_zero => intro h; exact absurd rfl h
  all_goals intro i hi; obtain rfl := hlat i hi; decide

/-- The invariant holds while a `FIB` halves its index. -/
theorem inv_fibDown : Inv fibDown := by
  have hlat : ∀ i, Latched fibDown i → i = .fibF := by
    intro i h
    have h' : (Except.ok Instr.fibF : Except DecodeError Instr) = .ok i := h
    cases h'; rfl
  constructor
  case toRule36 =>
    constructor
    case busy_not_done => intro; rfl
    case no_code => intro; rfl
    case cmd_bits => decide
    case fib_phase => intro; decide
    case exec_phase => intro h; cases h
    all_goals intro i hi; obtain rfl := hlat i hi; decide
  case capacity => exact capacity_of rfl (by intro r; cases r <;> decide)
  case cmd_legal => exact ⟨.fibF, rfl⟩
  case code => intro h; cases h
  case flags => decide
  case level_zero => decide
  case upc_zero => intro; rfl
  all_goals intro i hi; obtain rfl := hlat i hi; decide

theorem witness_LegalWordsAreExactlyNineteen : decode 0x09 = .ok .fibF ∧ decode 0x19 = .ok .fibB := ⟨rfl, rfl⟩

/-- A word at each end of each clause. -/
theorem witness_DecodingFollowsTheFields :
    ((0x20 : Word).toNat / 32 ≠ 0 ∧ (0xFFFFFFFFFFFFFFFF : Word).toNat / 32 ≠ 0) ∧
    ((0x0A : Word).toNat / 32 = 0 ∧ 10 ≤ (0x0A : Word).toNat % 16 ∧ (0x1F : Word).toNat / 32 = 0 ∧ 10 ≤ (0x1F : Word).toNat % 16) ∧
    ((0x10 : Word).toNat / 32 = 0 ∧ (0x10 : Word).toNat % 16 = 0 ∧ (0x10 : Word).toNat / 16 = 1) ∧
    ((0x19 : Word).toNat / 32 = 0 ∧ (0x19 : Word).toNat % 16 < 10 ∧ ¬((0x19 : Word).toNat % 16 = 0 ∧ (0x19 : Word).toNat / 16 = 1)) ∧
    ((0x00 : Word).toNat % 16 < 10 ∧ ¬((0x00 : Word).toNat % 16 = 0 ∧ (0x00 : Word).toNat / 16 = 1)) := by decide

theorem witness_StepIssuesTheDecodedCommand :
    let s : State := { ready with schedule := [turn true true], program := [.write 0x003 0x19] }
    s.phase = .idle ∧ s.schedule = { rst := false, host := true, tick := true } :: [] ∧
      s.program = .write 0x003 0x19 :: [] ∧ decode 0x19 = .ok .fibB := ⟨rfl, rfl, rfl, rfl⟩

theorem witness_StepRunsTheLatchedCommand :
    let s : State := { inExec .cmpB ready with schedule := [turn false true] }
    s.phase ≠ .idle ∧ s.schedule = { rst := false, host := false, tick := true } :: [] ∧ decode s.cmd = .ok .cmpB :=
  ⟨by decide, rfl, rfl⟩

theorem witness_SameCycleWriteComesBeforeMicroStep :
    let s : State := { inExec .cmpB ready with schedule := [turn true true], program := [.write 0x002 0x6] }
    s.phase ≠ .idle ∧ s.schedule = { rst := false, host := true, tick := true } :: [] ∧
      s.program = .write 0x002 0x6 :: [] ∧ decode s.cmd = .ok .cmpB := ⟨by decide, rfl, rfl, rfl⟩

theorem witness_RunGoesOnWithMicroStepsAlone :
    ((inExec .cmpB ready).schedule = [] ∧ (inExec .cmpB ready).phase ≠ .idle ∧ decode (inExec .cmpB ready).cmd = .ok .cmpB) ∧
    (blk.schedule = [] ∧ blk.phase = .idle ∧ blk.program = []) := ⟨⟨rfl, by decide, rfl⟩, rfl, rfl, rfl⟩

/-- An illegal command word to an idle core, and an operand write to a busy one without a micro-step. -/
theorem witness_StepPerformsTheHostsWrite :
    let s : State := { ready with schedule := [turn true true], program := [.write 0x003 0x0A] }
    let t : State := { inExec .cmpB ready with schedule := [turn true false], program := [.write 0x4FF 7, .wait] }
    (s.schedule = { rst := false, host := true, tick := true } :: [] ∧ s.program = .write 0x003 0x0A :: [] ∧
      (s.phase = .idle ∨ true = false)) ∧
    (t.schedule = { rst := false, host := true, tick := false } :: [] ∧ t.program = .write 0x4FF 7 :: [.wait] ∧
      (t.phase = .idle ∨ false = false)) := ⟨⟨rfl, rfl, .inl rfl⟩, rfl, rfl, .inr rfl⟩

/-- An idle core with a micro-step allowed, a busy one without and with a micro-step, and reset. -/
theorem witness_StepReadsWithoutEffect :
    let s : State := { ready with schedule := [turn true true], program := [.read 0x014] }
    let t : State := { inExec .cmpB ready with schedule := [turn true false], program := [.read 0x002] }
    let u : State := { inExec .cmpB ready with schedule := [turn true true], program := [.read 0x002] }
    let v : State := { ready with schedule := [{ rst := true, host := true, tick := true }], program := [.read 0xFFF] }
    (s.program = .read 0x014 :: [] ∧ s.schedule = { rst := false, host := true, tick := true } :: [] ∧ s.phase = .idle) ∧
    (t.program = .read 0x002 :: [] ∧ t.schedule = { rst := false, host := true, tick := false } :: []) ∧
    (u.program = .read 0x002 :: [] ∧ u.schedule = { rst := false, host := true, tick := true } :: [] ∧ u.phase ≠ .idle ∧
      decode u.cmd = .ok .cmpB) ∧
    (v.program = .read 0xFFF :: [] ∧ v.schedule = { rst := true, host := true, tick := true } :: []) :=
  ⟨⟨rfl, rfl, rfl⟩, ⟨rfl, rfl⟩, ⟨rfl, rfl, by decide, rfl⟩, rfl, rfl⟩

theorem witness_WaitRepeatsWhileBusy :
    let s : State := { blk with schedule := [turn true true], program := [.wait, .read 2] }
    let t : State := { inExec .nop blk with schedule := [turn true false], program := [.wait, .read 2] }
    let u : State := { inExec .nop blk with schedule := [turn true true], program := [.wait] }
    (s.schedule = { rst := false, host := true, tick := true } :: [] ∧ s.program = .wait :: [.read 2] ∧ s.phase = .idle) ∧
    (t.schedule = { rst := false, host := true, tick := false } :: [] ∧ t.program = .wait :: [.read 2] ∧ t.phase ≠ .idle) ∧
    (u.schedule = { rst := false, host := true, tick := true } :: [] ∧ u.program = .wait :: [] ∧ u.phase ≠ .idle ∧
      decode u.cmd = .ok .nop) :=
  ⟨⟨rfl, rfl, rfl⟩, ⟨rfl, rfl, by decide⟩, rfl, rfl, by decide, rfl⟩

theorem witness_NopWritesOnlyDone : blk.phase = .idle ∧ (inExec .nop blk).phase = .exec ∧ (fibLevel .f).phase ≠ .idle :=
  ⟨rfl, rfl, by decide⟩

/-- For each clause of the statements about the reducing primitive commands: moduli 0, and not 0, idle and in flight, lane B
at the edge of its capacity. -/
theorem witness_reducing_primitives :
    (blk.phase = .idle ∧ blk.f.M = 0 ∧ blk.b.M = 0) ∧ (ready.phase = .idle ∧ ready.f.M ≠ 0 ∧ ready.b.M ≠ 0) ∧
    ((inExec .mulmodF ready).phase = .exec ∧ (inExec .mulmodF ready).f.M ≠ 0) ∧
    ((inExec .mulmodB wideB).phase = .exec ∧ (inExec .mulmodB wideB).b.M ≠ 0 ∧ Capacity (inExec .mulmodB wideB)) :=
  ⟨⟨rfl, rfl, rfl⟩, ⟨rfl, by decide, by decide⟩, ⟨rfl, by decide⟩, rfl, by decide,
    capacity_of rfl (by intro r; cases r <;> decide)⟩

theorem witness_MulmodMultipliesModuloM : (inExec .mulmodB wideB).phase = .exec ∧ (inExec .mulmodB wideB).b.M ≠ 0 ∧
    Capacity (inExec .mulmodB wideB) := witness_reducing_primitives.2.2.2

theorem witness_AddmodAddsModuloM : (inExec .addmodB wideB).phase = .exec ∧ (inExec .addmodB wideB).b.M ≠ 0 ∧
    Capacity (inExec .addmodB wideB) := ⟨rfl, by decide, capacity_of rfl (by intro r; cases r <;> decide)⟩

theorem witness_SubmodGivesTheNonNegativeResidue : (inExec .submodB wideB).phase = .exec ∧ (inExec .submodB wideB).b.M ≠ 0 ∧
    Capacity (inExec .submodB wideB) := ⟨rfl, by decide, capacity_of rfl (by intro r; cases r <;> decide)⟩

theorem witness_DblmodDoublesModuloM : (inExec .dblmodB wideB).phase = .exec ∧ (inExec .dblmodB wideB).b.M ≠ 0 ∧
    Capacity (inExec .dblmodB wideB) := ⟨rfl, by decide, capacity_of rfl (by intro r; cases r <;> decide)⟩

theorem witness_ReduceTakesTheRemainder : (inExec .reduceB wideB).phase = .exec ∧ (inExec .reduceB wideB).b.M ≠ 0 ∧
    Capacity (inExec .reduceB wideB) := ⟨rfl, by decide, capacity_of rfl (by intro r; cases r <;> decide)⟩

theorem witness_HalveShiftsRightByOne : blk.phase = .idle ∧ (inExec .halveF blk).phase = .exec ∧
    (inExec .halveB wideB).phase = .exec ∧ Capacity (inExec .halveB wideB) :=
  ⟨rfl, rfl, rfl, capacity_of rfl (by intro r; cases r <;> decide)⟩

theorem witness_IsevenWritesOnlyEV : blk.phase = .idle ∧ (inExec .isevenF blk).phase = .exec ∧
    (inExec .isevenB blk).phase = .exec := ⟨rfl, rfl, rfl⟩

theorem witness_CmpWritesOnlyGTandEQ : blk.phase = .idle ∧ (inExec .cmpF blk).phase = .exec ∧
    (inExec .cmpB blk).phase = .exec := ⟨rfl, rfl, rfl⟩

theorem witness_FibStartsByCopyingTheIndex : (blk.phase = .idle ∧ blk.f.M = 0 ∧ blk.b.M = 0) ∧
    (ready.phase = .idle ∧ ready.f.M ≠ 0 ∧ ready.b.M ≠ 0 ∧ Capacity ready) :=
  ⟨⟨rfl, rfl, rfl⟩, rfl, by decide, by decide, capacity_ready⟩

/-- The invariant in `DESC` with `K` not 0; the last level lane F can have; and the end of the phase. -/
theorem witness_FibDescHalvesOrEnds :
    (Inv fibDown ∧ Latched fibDown .fibF ∧ fibDown.phase = .desc ∧ fibDown.rd .f .K ≠ 0) ∧
    let s : State := { blk with f := { blk.f with K := 1 }, phase := .desc, lvl := 63 }
    let t : State := { blk with phase := .desc, lvl := 64 }
    (s.phase = .desc ∧ s.rd .f .K ≠ 0 ∧ s.lvl < s.XW .f) ∧ (t.phase = .desc ∧ t.rd .f .K = 0 ∧ t.rd .b .K = 0) :=
  ⟨⟨inv_fibDown, rfl, rfl, by decide⟩, by decide⟩

theorem witness_FibBaseLoadsTheBasePair :
    ({ ready with phase := .base } : State).phase = .base ∧ ({ ready with phase := .base } : State).rd .b .M ≠ 0 := by decide

theorem witness_FibAscRunsTheMicroProgram : ∀ u : Fin 7, u ≠ 6 →
    ({ ready with phase := .asc, upc := u } : State).phase = .asc ∧ ({ ready with phase := .asc, upc := u } : State).upc = u ∧
      ({ ready with phase := .asc, upc := u } : State).rd .f .M ≠ 0 := by decide

/-- The invariant in `ASC`; both parities, bit 0 of the index 10 and bit 1 of it; and the top level lane F can have. -/
theorem witness_FibSelectsByTheParityBit :
    (Inv (fibLevel .f) ∧ Latched (fibLevel .f) .fibF ∧ (fibLevel .f).phase = .asc) ∧
    let s : State := { ready with phase := .asc, upc := 6, lvl := 1 }
    let t : State := { ready with phase := .asc, upc := 6, lvl := 2 }
    let u : State := { ready with phase := .asc, upc := 6, lvl := 64 }
    (s.phase = .asc ∧ s.upc = 6 ∧ 1 ≤ s.lvl ∧ s.lvl ≤ s.XW .f ∧ s.rd .f .M ≠ 0 ∧ s.rd .f .N / 2 ^ (s.lvl - 1) % 2 = 0) ∧
    (t.phase = .asc ∧ t.upc = 6 ∧ 1 ≤ t.lvl ∧ t.lvl ≤ t.XW .b ∧ t.rd .b .M ≠ 0 ∧ t.rd .b .N / 2 ^ (t.lvl - 1) % 2 = 1) ∧
    (u.phase = .asc ∧ u.upc = 6 ∧ u.lvl ≤ u.XW .f ∧ u.rd .f .M ≠ 0 ∧ u.rd .f .N / 2 ^ (u.lvl - 1) % 2 = 0) :=
  ⟨⟨inv_fibLevel, rfl, rfl⟩, by decide⟩

theorem witness_FibFinWritesTheResult : ∀ ln, (fibFinal ln).phase = .fin ∧ Capacity (fibFinal ln) ∧ FibRun ln (fibFinal ln) :=
  fun ln => ⟨rfl, capacity_fibFinal ln, fibRun_fibFinal ln⟩

theorem witness_PairRecursionGivesFibonacci : 1 ≤ 1 ∧ 1 ≤ 5 := by decide

theorem witness_ResultHasTheStatedProperties : 2 ≤ 2 ∧ 1 ≤ 1 := by decide

theorem witness_AcceptStartsAFibRun : ∀ ln, ready.phase = .idle ∧ ready.rd ln .M ≠ 0 ∧ Capacity ready :=
  fun ln => ⟨rfl, by cases ln <;> decide, capacity_ready⟩

/-- In the middle of a level, with the default turn and with a host write in the same cycle. -/
theorem witness_EveryStepKeepsTheLevelInvariant : ∀ ln,
    (Capacity (fibLevel ln) ∧ FibRun ln (fibLevel ln) ∧ (nextTurn (fibLevel ln)).1.rst = false) ∧
    (Capacity (fibFinal ln) ∧ FibRun ln (fibFinal ln) ∧ (nextTurn (fibFinal ln)).1.rst = false) :=
  fun ln => ⟨⟨capacity_fibLevel ln, fibRun_fibLevel ln, rfl⟩, capacity_fibFinal ln, fibRun_fibFinal ln, rfl⟩

theorem witness_EachMicroStepLeavesOneLess : ∀ ln, Capacity (fibFinal ln) ∧ FibRun ln (fibFinal ln) ∧
    ∃ t, exec (fibOf ln) (fibFinal ln) = .next t := by
  intro ln
  exact ⟨capacity_fibFinal ln, fibRun_fibFinal ln, by cases ln <;> exact ⟨_, rfl⟩⟩

/-- The index 10 on lane F: 8·4 + 3 = 35 micro-steps, here with the host idle, and with it writing in every cycle. -/
theorem witness_FibComputesFibonacciUnderEveryInterleaving :
    let ts := List.replicate 34 (turn true true)
    (ready.phase = .idle ∧ ready.rd .f .M ≠ 0 ∧ Capacity ready ∧ (∃ t, exec (fibOf .f) ready = .next t)) ∧
      NoReset (ts ++ [turn false true]) ∧ (turn false true).tick = true ∧
      ticks (ts ++ [turn false true]) = 8 * bitlen (ready.rd .f .N) + 3 := by
  refine ⟨⟨rfl, by decide, capacity_ready, _, rfl⟩, ?_, rfl, by decide⟩
  unfold NoReset; decide

theorem witness_FibStaysBusyUntilItsLastMicroStep :
    let ts := List.replicate 34 (turn true true)
    (ready.phase = .idle ∧ ready.rd .b .M ≠ 0 ∧ Capacity ready ∧ (∃ t, exec (fibOf .b) ready = .next t)) ∧
      NoReset ts ∧ ticks ts < 8 * bitlen (ready.rd .b .N) + 3 := by
  refine ⟨⟨rfl, by decide, capacity_ready, _, rfl⟩, ?_, by decide⟩
  unfold NoReset; decide

theorem witness_WideDomainNeverWraps : (0xFFFFFFFFFFFFFFFF : Word) ≠ 0 := by decide

theorem witness_LaneFObeysTheArithmeticLaws : (1 : Word) ≠ 0 ∧ (0xFFFFFFFFFFFFFFFF : Word) ≠ 0 := by decide

theorem witness_LanesGiveOneAnswer : BeOp.submod.reducing = true ∧ 2 ^ 64 - 1 < 2 ^ 64 ∧ 1 ≤ 2 ^ 64 - 1 := by decide

theorem witness_ZeroModulusHasNoAnswer : BeOp.reduce.reducing = true ∧
    ((inExec .mulmodB blk).phase = .exec ∧ Instr.mulmodB.reducing = true ∧ Instr.mulmodB.isFib = false ∧
      (inExec .mulmodB blk).rd .b .M = 0) := by decide

theorem witness_RegisterHoldsWhatWasWritten : (Lane.f, Reg.A) ≠ (Lane.b, Reg.A) ∧ (Lane.f, Reg.A) ≠ (Lane.f, Reg.B) := by decide

/-- The first and the last limb, and reserved addresses at each end of each range, for `L` = 2. -/
theorem witness_BusReadReturnsTheMappedWord : Capacity wideB ∧ (0 < wideB.L ∧ (0x100 : Addr).toNat = 0x100 + 0) ∧
    (1 < wideB.L ∧ (0x501 : Addr).toNat = 0x500 + 1) ∧ (ReservedAddr wideB.L (0x004 : Addr).toNat) := by
  refine ⟨capacity_wideB, by decide, by decide, ?_⟩
  unfold ReservedAddr; decide

theorem witness_ReservedAndReadOnlyIgnoreWrites : Capacity wideB ∧
    (∀ a ∈ [0x004, 0x00F, 0x015, 0x0FF, 0x102, 0x1FF, 0x202, 0x5FF, 0x600, 0xFFF], ReservedAddr wideB.L a) ∧
    (∀ a ∈ [0x003, 0x010, 0x014, 0x100, 0x101, 0x501], ¬ReservedAddr wideB.L a) ∧
    (∀ a ∈ [0x000, 0x014, 0x500, 0x501], ReadOnlyAddr wideB.L a) ∧ (∀ a ∈ [0x001, 0x013, 0x4FF, 0x502], ¬ReadOnlyAddr wideB.L a) := by
  refine ⟨capacity_wideB, ?_, ?_, ?_, ?_⟩ <;> simp only [ReservedAddr, ReadOnlyAddr] <;> decide

theorem witness_OperandWriteWhileBusyIsDropped : (inExec .nop wideB).phase ≠ .idle ∧
    (∀ a ∈ [0x010, 0x013, 0x100, 0x101, 0x400, 0x401],
      (0x010 ≤ a ∧ a ≤ 0x013) ∨ (0x100 ≤ a ∧ a < 0x500 ∧ a % 256 < (inExec .nop wideB).L)) := by decide

theorem witness_OperandWriteWhileIdleReplacesTheWord : wideB.phase = .idle ∧ Capacity wideB ∧
    (0 < wideB.L ∧ (0x100 : Addr).toNat = 0x100 + 0) ∧ (1 < wideB.L ∧ (0x401 : Addr).toNat = 0x400 + 1) :=
  ⟨rfl, capacity_wideB, by decide, by decide⟩

theorem witness_WrittenOperandReadsBackAlone : wideB.phase = .idle ∧ Capacity wideB ∧
    (0x100 ≤ (0x401 : Addr).toNat ∧ (0x401 : Addr).toNat < 0x500 ∧ (0x401 : Addr).toNat % 256 < wideB.L) ∧
    (0x400 : Addr) ≠ 0x401 := ⟨rfl, capacity_wideB, by decide, by decide⟩

/-- One word for each clause: busy, illegal, zero modulus, accepted without and with the modulus test, `FIB`. -/
theorem witness_CommandWriteDoesTheFirstThatHolds :
    (Capacity blk ∧ blk.phase = .idle ∧ decode 0x10 = .error .nopWithLane) ∧
    (decode 0x19 = .ok .fibB ∧ (0x19 : Word).toNat % 16 ∈ [1, 2, 3, 4, 5, 9] ∧ blk.rd .b .M = 0) ∧
    (decode 0x18 = .ok .cmpB ∧ (0x18 : Word).toNat % 16 ∈ [0, 6, 7, 8]) ∧
    (Capacity ready ∧ ready.phase = .idle ∧ decode 0x01 = .ok .mulmodF ∧ (0x01 : Word).toNat % 16 ∈ [1, 2, 3, 4, 5] ∧ ready.rd .f .M ≠ 0) ∧
    (decode 0x09 = .ok .fibF ∧ (0x09 : Word).toNat % 16 = 9 ∧ ready.rd .f .M ≠ 0) ∧
    (Capacity (fibLevel .f) ∧ (fibLevel .f).phase ≠ .idle) :=
  ⟨⟨capacity_blk, rfl, rfl⟩, ⟨rfl, by decide, rfl⟩, ⟨rfl, by decide⟩, ⟨capacity_ready, rfl, rfl, by decide, by decide⟩,
    ⟨rfl, by decide, by decide⟩, capacity_fibLevel .f, by decide⟩

theorem witness_LdbWritesEveryLimb : wideB.phase = .idle ∧ Capacity wideB ∧ (HostLine.ldb .M (2 ^ 128 - 1)).wf wideB.L = true ∧
    (HostLine.ldb .N 0).wf wideB.L = true := ⟨rfl, capacity_wideB, by decide, by decide⟩

theorem witness_RdbReadsEveryLimb : Capacity wideB ∧ indexOfReg .N = some 0 ∧ indexOfReg .R = some 4 := ⟨capacity_wideB, rfl, rfl⟩

theorem witness_RaiseKeepsTheFirstError : blk.err = false ∧ ({ blk with err := true, errcode := 1 } : State).err = true := ⟨rfl, rfl⟩

theorem witness_RecordedErrorStaysUntilCleared :
    let s : State := { blk with err := true, errcode := 1 }
    s.err = true ∧ (0x003 : Addr) ≠ 0x002 ∧ ∃ t, busWrite 0x003 0x0A s = .next t := ⟨rfl, by decide, _, rfl⟩

theorem witness_ResetClearsEverything :
    let s : State := { fibLevel .f with
      schedule := [{ rst := true, host := true, tick := true }], program := [.write 0x003 0x09] }
    (accessPins true (.write 0x003 0x09)).rst = true ∧
      s.schedule = { rst := true, host := true, tick := true } :: [] := ⟨rfl, rfl⟩

theorem witness_InvariantHoldsAfterReset : 1 ≤ 1 ∧ 1 ≤ 256 ∧ 256 ≤ 256 := by decide

theorem witness_EveryStepKeepsTheInvariant : Inv (fibLevel .f) ∧ ∃ t, step (fibLevel .f) = .next t := ⟨inv_fibLevel, _, rfl⟩

theorem witness_NoStepStops : Inv (fibLevel .f) ∧ (fibLevel .f).busy = true := ⟨inv_fibLevel, rfl⟩

theorem witness_CommandsKeepOperandsAndTheOtherLane : (∃ t, exec .fibB (fibLevel .b) = .next t) ∧ (fibLevel .b).phase ≠ .idle ∧
    Lane.f ≠ Instr.fibB.lane := ⟨⟨_, rfl⟩, by decide, by decide⟩

theorem witness_OnlyCmpAndIsevenWriteFlags : (∃ t, exec .mulmodF (inExec .mulmodF ready) = .next t) ∧ Instr.mulmodF ≠ .cmpF ∧
    Instr.mulmodF ≠ .cmpB ∧ Instr.mulmodF ≠ .isevenF ∧ Instr.mulmodF ≠ .isevenB ∧ Instr.mulmodF ≠ .fibF ∧ Instr.mulmodF ≠ .fibB ∧
    indexOfReg .T = none := ⟨⟨_, rfl⟩, by decide⟩

theorem witness_ResultIsWrittenOnlyAtCompletion : ∃ t, exec .fibF (fibFinal .f) = .next t ∧ t.rd .f .R ≠ (fibFinal .f).rd .f .R :=
  ⟨_, rfl, by decide⟩

/-- Two states that differ in everything hidden and in the other lane. -/
theorem witness_HiddenStateNeverShows :
    let s₁ := inExec .mulmodF ready
    let s₂ : State := { inExec .mulmodF ready with f := { ready.f with A := 7, T := 9 }, b := { ready.b with X := 1 }, lvl := 5, done := true }
    Instr.mulmodF.isFib = false ∧ s₁.phase = .exec ∧ SameVisible .f s₁ s₂ ∧ ∃ t, exec .mulmodF s₁ = .next t :=
  ⟨rfl, rfl, ⟨rfl, rfl, rfl, rfl, rfl, by intro r hr; cases r <;> first | rfl | cases hr⟩, _, rfl⟩

end Sys2Proof.Tests.Slice0
end

/-! ### Proofs: the scope family -/

namespace Sys2Proof.Proofs.Scope

open Sys2Proof.Machine

/-- A register other than the written one, in the same lane or in the other, reads as before the write (rule R23). -/
theorem rd_wr_of_ne (s : State) {ln ln' : Lane} {r r' : Reg} (v : Nat) (h : (ln, r) ≠ (ln', r')) :
    (s.wr ln r v).rd ln' r' = s.rd ln' r' := by
  by_cases hl : ln' = ln
  · subst hl
    have hr : r' ≠ r := fun hr => h (by rw [hr])
    exact State.rd_wr_other_reg s ln' v hr
  · exact State.rd_wr_other_lane s r r' v hl

/-- Settles O38: the read after the write is the width law of `State.wr`, the frame is `rd_wr_of_ne`. -/
theorem registerHoldsWhatWasWritten : Obligations.RegisterHoldsWhatWasWritten :=
  fun s ln _ r _ v => ⟨State.rd_wr_same s ln r v, rd_wr_of_ne s v⟩

end Sys2Proof.Proofs.Scope

/-! ### Proofs: the state family -/

namespace Sys2Proof.Proofs.StateFamily

open Sys2Proof.Machine Sys2Proof.Safety Sys2Proof.Proofs.Scope

/-! #### Command words (rules R90 to R94) -/

/-- The code table read from a code and a lane gives a command with that code. -/
theorem opCode_of_instrOf {n : Nat} {ln : Lane} {i : Instr} (h : instrOf n ln = some i) : i.opCode.toNat = n := by
  unfold instrOf at h
  split at h <;> cases h <;> rfl

/-- A word that decodes is below 32 and carries the code of its command in bits 3:0. -/
theorem fields_of_decode {w : Word} {i : Instr} (h : decode w = .ok i) : w.toNat < 32 ∧ w.toNat % 16 = i.opCode.toNat := by
  simp only [decode] at h
  split at h
  · cases h
  rename_i hr
  split at h
  · cases h
  split at h
  · rename_i j hj
    cases h
    have hrsv : (fieldsOf w).rsv = 0 := by simpa [CmdFields.rsvOk] using hr
    have hrsv' : w.toNat / 32 % 2 ^ 59 = 0 := by
      simpa [fieldsOf, BitVec.extractLsb'_toNat, Nat.shiftRight_eq_div_pow] using congrArg BitVec.toNat hrsv
    have hop : i.opCode.toNat = w.toNat % 16 := by
      simpa [fieldsOf, BitVec.extractLsb'_toNat] using opCode_of_instrOf hj
    have := w.isLt
    omega
  · cases h

/-- The latched command is one (rule R27). -/
theorem latched_unique {s : State} {i j : Instr} (hi : Latched s i) (hj : Latched s j) : j = i :=
  Except.ok.inj (Eq.trans (Eq.symm hj) hi)

/-- The word of a command decodes to it. -/
theorem decode_encode (i : Instr) : decode (encode i) = .ok i := (Laws.RoundTrip.all i).1

/-- `FIB` is the code 9 and no code is above it (rule R91). -/
theorem opCode_toNat_eq_nine_iff (i : Instr) : i.opCode.toNat = 9 ↔ i.isFib = true := by cases i <;> decide

theorem reducing_of_isFib {i : Instr} : i.isFib = true → i.reducing = true := by cases i <;> decide

theorem isFib_eq_false {i : Instr} : i ≠ .fibF → i ≠ .fibB → i.isFib = false := by cases i <;> decide

theorem eq_cmp_of_opCode {i : Instr} : BeOp.code .cmp = i.opCode → i = .cmpF ∨ i = .cmpB := by cases i <;> decide

theorem eq_iseven_of_opCode {i : Instr} : BeOp.code .iseven = i.opCode → i = .isevenF ∨ i = .isevenB := by
  cases i <;> decide

theorem opCode_toNat_le_nine (i : Instr) : i.opCode.toNat ≤ 9 := by cases i <;> decide

/-! #### The length of an index (rule R7) -/

/-- An index has at most `l` bits just where it is below `2^l`. -/
theorem bitlen_le_iff (n l : Nat) : bitlen n ≤ l ↔ n < 2 ^ l := by
  unfold bitlen
  split
  · rename_i h
    simp [h]
  · rename_i h
    rw [Nat.add_one_le_iff, Nat.log2_lt h]

/-- Halved `l` times an index is 0 just where it has at most `l` bits. -/
theorem div_two_pow_eq_zero_iff (n l : Nat) : n / 2 ^ l = 0 ↔ bitlen n ≤ l := by
  rw [bitlen_le_iff, Nat.div_eq_zero_iff]
  simp

/-! #### The values of the multiplier units (rules R121, R130) -/

/-- A register holds no more than its lane's width. -/
theorem rd_lt {s : State} (h : Capacity s) (ln : Lane) (r : Reg) : s.rd ln r < 2 ^ s.XW ln := by
  cases ln
  · exact State.rd_f_lt s r
  · exact h.fits r

/-- Reducing and then narrowing loses nothing (rule R121). -/
theorem narrowMod_toNat (v : BitVec 128) {m : Word} (hm : m ≠ 0) : (narrowMod v m).toNat = v.toNat % m.toNat := by
  have hm' : 0 < m.toNat := by bv_omega
  have hlt : v.toNat % m.toNat < m.toNat := Nat.mod_lt _ hm'
  have := m.isLt
  simp only [narrowMod, zext128, BitVec.toNat_setWidth, BitVec.toNat_umod]
  rw [Nat.mod_eq_of_lt (show m.toNat < 2 ^ 128 by omega), Nat.mod_eq_of_lt (by omega)]

theorem narrowMod_lt (v : BitVec 128) {m : Word} (hm : m ≠ 0) : (narrowMod v m).toNat < m.toNat := by
  rw [narrowMod_toNat v hm]
  exact Nat.mod_lt _ (by bv_omega)

theorem mmwSubmod_lt (x y : Nat) {m : Nat} (hm : 0 < m) : mmwSubmod x y m < m := by
  have hx : x % m < m := Nat.mod_lt _ hm
  simp only [mmwSubmod]
  split <;> omega

/-- Both units take differences as naturals do (rules R124, R144). -/
theorem mm64Submod_toNat (x y : Word) {m : Word} (hm : m ≠ 0) :
    (mm64Submod x y m).toNat = mmwSubmod x.toNat y.toNat m.toNat := by
  have hm' : 0 < m.toNat := by bv_omega
  have hlt := m.isLt
  have hz : ∀ v : Word, (zext128 v).toNat = v.toNat := fun v => by
    have := v.isLt
    simp only [zext128, BitVec.toNat_setWidth]
    omega
  have hx : x.toNat % m.toNat < m.toNat := Nat.mod_lt _ hm'
  have hy : y.toNat % m.toNat < m.toNat := Nat.mod_lt _ hm'
  simp only [mm64Submod, mmwSubmod, gt_iff_lt, BitVec.lt_def, BitVec.toNat_umod, hz]
  split <;> simp only [BitVec.toNat_setWidth, BitVec.toNat_sub, BitVec.toNat_add, BitVec.toNat_umod, hz] <;> omega

/-- A reducing code with a modulus that is not 0 gets a value below it from either unit (rule R130). -/
theorem mmw_value_lt {op : BeOp} (x y : Nat) {m : Nat} (hop : op.reducing = true) (hm : 0 < m) :
    ∃ r, mmw op x y m = .value r ∧ r < m := by
  cases op with
  | mulmod => exact ⟨_, rfl, Nat.mod_lt _ hm⟩
  | addmod => exact ⟨_, rfl, Nat.mod_lt _ hm⟩
  | submod => exact ⟨_, rfl, mmwSubmod_lt x y hm⟩
  | dblmod => exact ⟨_, rfl, Nat.mod_lt _ hm⟩
  | reduce => exact ⟨_, rfl, Nat.mod_lt _ hm⟩
  | halve | iseven | cmp => cases hop

theorem mm64_value_lt {op : BeOp} (x y : Word) {m : Word} (hop : op.reducing = true) (hm : m ≠ 0) :
    ∃ r, mm64 op x y m = .value r ∧ r < m.toNat := by
  cases op with
  | mulmod => exact ⟨_, rfl, narrowMod_lt _ hm⟩
  | addmod => exact ⟨_, rfl, narrowMod_lt _ hm⟩
  | submod => exact ⟨_, rfl, mm64Submod_toNat x y hm ▸ mmwSubmod_lt _ _ (by bv_omega)⟩
  | dblmod => exact ⟨_, rfl, narrowMod_lt _ hm⟩
  | reduce => exact ⟨_, rfl, narrowMod_lt _ hm⟩
  | halve | iseven | cmp => cases hop

/-- So does the backend port of a lane, the modulus fitting the lane. -/
theorem backendValue_lt {ln : Lane} {op : BeOp} {a b m r : Nat} (hop : op.reducing = true) (hm : m ≠ 0)
    (hw : ln = .f → m < 2 ^ 64) (h : backendValue ln op a b m = some r) : r < m := by
  cases ln with
  | b =>
    obtain ⟨r', hr', hlt⟩ := mmw_value_lt a b hop (Nat.pos_of_ne_zero hm)
    have : r' = r := by simpa [backendValue, backend, hm, hr'] using h
    exact this ▸ hlt
  | f =>
    have hmod : (BitVec.ofNat 64 m).toNat = m := Nat.mod_eq_of_lt (hw rfl)
    have hne : BitVec.ofNat 64 m ≠ 0 := fun h0 => hm (by rw [← hmod, h0]; rfl)
    obtain ⟨r', hr', hlt⟩ := mm64_value_lt (BitVec.ofNat 64 a) (BitVec.ofNat 64 b) hop hne
    have : r' = r := by simpa [backendValue, backend, hm, hr'] using h
    rwa [this, hmod] at hlt

/-- `HALVE` of a value that fits its lane is its half (rules R161, R164). -/
theorem backendValue_halve {ln : Lane} {a b m r : Nat} (hw : ln = .f → a < 2 ^ 64)
    (h : backendValue ln .halve a b m = some r) : r = a / 2 := by
  cases ln
  case b => simpa [backendValue, backend, BeOp.reducing, mmw, mmwHalve, Nat.shiftRight_eq_div_pow, eq_comm] using h
  case f =>
    have : a % 18446744073709551616 = a := Nat.mod_eq_of_lt (hw rfl)
    simpa [backendValue, backend, BeOp.reducing, mm64, mm64Halve, Nat.shiftRight_eq_div_pow, eq_comm, this] using h

/-- Only `CMP` is answered with the order flags (rule R97), and a greater value is never equal (rule R163). -/
theorem backend_order {ln : Lane} {op : BeOp} {a b m : Nat} {g e : Bool} (h : backend ln op a b m = some (.order g e)) :
    op = .cmp ∧ ¬(g = true ∧ e = true) := by
  have hcmp : ∀ x y : Nat, ¬(gtFlag x y = true ∧ eqFlag x y = true) := fun x y => by
    simp only [gtFlag, eqFlag, decide_eq_true_eq]
    omega
  unfold backend at h
  split at h
  · cases h
  · cases ln <;> cases op <;> cases h <;> exact ⟨rfl, hcmp _ _⟩

/-- Only `ISEVEN` is answered with the parity flag (rule R97). -/
theorem backend_parity {ln : Lane} {op : BeOp} {a b m : Nat} {e : Bool} (h : backend ln op a b m = some (.parity e)) :
    op = .iseven := by
  unfold backend at h
  split at h
  · cases h
  · cases ln <;> cases op <;> cases h <;> rfl

/-! #### The controller's moves -/

/-- The controller's registers (rule R25) set to a phase, a level count and a place in the micro-program; everything else
stays. Every micro-step that does not complete ends in such a move. -/
def moveTo (p : Phase) (l : Nat) (u : Fin 7) (s : State) : State := { s with phase := p, lvl := l, upc := u }

section
variable (p : Phase) (l : Nat) (u : Fin 7) (s : State)

@[simp] theorem moveTo_phase : (moveTo p l u s).phase = p := rfl
@[simp] theorem moveTo_lvl : (moveTo p l u s).lvl = l := rfl
@[simp] theorem moveTo_upc : (moveTo p l u s).upc = u := rfl
@[simp] theorem moveTo_L : (moveTo p l u s).L = s.L := rfl
@[simp] theorem moveTo_f : (moveTo p l u s).f = s.f := rfl
@[simp] theorem moveTo_b : (moveTo p l u s).b = s.b := rfl
@[simp] theorem moveTo_cmd : (moveTo p l u s).cmd = s.cmd := rfl
@[simp] theorem moveTo_done : (moveTo p l u s).done = s.done := rfl
@[simp] theorem moveTo_err : (moveTo p l u s).err = s.err := rfl
@[simp] theorem moveTo_errcode : (moveTo p l u s).errcode = s.errcode := rfl
@[simp] theorem moveTo_gt : (moveTo p l u s).gt = s.gt := rfl
@[simp] theorem moveTo_eq : (moveTo p l u s).eq = s.eq := rfl
@[simp] theorem moveTo_ev : (moveTo p l u s).ev = s.ev := rfl
@[simp] theorem moveTo_ieDone : (moveTo p l u s).ieDone = s.ieDone := rfl
@[simp] theorem moveTo_ieErr : (moveTo p l u s).ieErr = s.ieErr := rfl
@[simp] theorem moveTo_program : (moveTo p l u s).program = s.program := rfl
@[simp] theorem moveTo_schedule : (moveTo p l u s).schedule = s.schedule := rfl
@[simp] theorem moveTo_reads : (moveTo p l u s).reads = s.reads := rfl
@[simp] theorem moveTo_rd (ln : Lane) (r : Reg) : (moveTo p l u s).rd ln r = s.rd ln r := rfl

end

@[simp] theorem complete_rd (s : State) (ln : Lane) (r : Reg) : (complete s).rd ln r = s.rd ln r := rfl
@[simp] theorem latchCommand_rd (i : Instr) (s : State) (ln : Lane) (r : Reg) : (latchCommand i s).rd ln r = s.rd ln r := rfl

/-! Taking an answer to its place touches `R` or the flags alone (rule R97). -/

section
variable (ln : Lane) (ans : BeAnswer) (s : State)

@[simp] theorem routeAnswer_L : (routeAnswer ln ans s).L = s.L := by cases ans <;> simp [routeAnswer]
@[simp] theorem routeAnswer_lvl : (routeAnswer ln ans s).lvl = s.lvl := by cases ans <;> simp [routeAnswer]
@[simp] theorem routeAnswer_upc : (routeAnswer ln ans s).upc = s.upc := by cases ans <;> simp [routeAnswer]
@[simp] theorem routeAnswer_cmd : (routeAnswer ln ans s).cmd = s.cmd := by cases ans <;> simp [routeAnswer]
@[simp] theorem routeAnswer_err : (routeAnswer ln ans s).err = s.err := by cases ans <;> simp [routeAnswer]
@[simp] theorem routeAnswer_errcode : (routeAnswer ln ans s).errcode = s.errcode := by cases ans <;> simp [routeAnswer]

end

/-! #### What a micro-step of the doubler can do (rules R187 to R192) -/

/-- The phase after a level count is reached: `FIN` where no level is left (rules R188, R190). -/
def phaseAt (l : Nat) : Phase := if l = 0 then .fin else .asc

/-- The micro-steps of a `FIB` of lane `ln` from state `s`, each with what it asks of `s` and where it goes. -/
inductive FibStep (ln : Lane) (s : State) : State → Prop
  /-- `DESC` with an index left (rule R187). -/
  | halve (r : Nat) : s.phase = .desc → s.rd ln .K ≠ 0 →
      backendValue ln .halve (s.rd ln .K) 0 (s.rd ln .M) = some r →
      FibStep ln s (moveTo .desc ((s.lvl + 1) % 2 ^ Config.lvlW s.L) s.upc (s.wr ln .K r))
  /-- `DESC` with the index used up (rule R187). -/
  | turn : s.phase = .desc → s.rd ln .K = 0 → FibStep ln s (moveTo .base s.lvl s.upc s)
  /-- `BASE` (rule R188). -/
  | base (r : Nat) : s.phase = .base → backendValue ln .reduce 1 0 (s.rd ln .M) = some r →
      FibStep ln s (moveTo (phaseAt s.lvl) s.lvl 0 ((s.wr ln .A 0).wr ln .B r))
  /-- A row of the micro-program (rule R189). -/
  | row (m : MicroOp) (r : Nat) : s.phase = .asc → microProgram s.upc = some m →
      backendValue ln m.op (s.rd ln m.a) (s.rd ln m.b) (s.rd ln .M) = some r →
      FibStep ln s (moveTo .asc s.lvl (s.upc + 1) (s.wr ln m.dst r))
  /-- Micro-step 6 at an odd index (rule R190). -/
  | odd (l r : Nat) : s.phase = .asc → s.upc = 6 → s.lvl ≠ 0 → l = (s.lvl - 1) % 2 ^ Config.lvlW s.L →
      (s.rd ln .N).testBit (s.lvl - 1) = true →
      backendValue ln .addmod (s.rd ln .C) (s.rd ln .D) (s.rd ln .M) = some r →
      FibStep ln s (moveTo (phaseAt l) l 0 ((s.wr ln .A (s.rd ln .D)).wr ln .B r))
  /-- Micro-step 6 at an even index (rule R190). -/
  | even (l : Nat) : s.phase = .asc → s.upc = 6 → s.lvl ≠ 0 → l = (s.lvl - 1) % 2 ^ Config.lvlW s.L →
      (s.rd ln .N).testBit (s.lvl - 1) = false →
      FibStep ln s (moveTo (phaseAt l) l 0 ((s.wr ln .A (s.rd ln .C)).wr ln .B (s.rd ln .D)))
  /-- `FIN` (rule R192). -/
  | fin : s.phase = .fin → FibStep ln s (complete (s.wr ln .R (s.rd ln .A)))

/-- A backend operation of the controller that goes on has written its value and then done what comes after. -/
theorem afterBackendInto_eq_next {ln : Lane} {op : BeOp} {a b : Nat} {dst : Reg} {s t : State} {g : State → State}
    (h : afterBackend (backendInto ln op a b dst s) g = .next t) :
    ∃ r, backendValue ln op a b (s.rd ln .M) = some r ∧ t = g (s.wr ln dst r) := by
  obtain ⟨u, hu, rfl⟩ := afterBackend_eq_next h
  obtain ⟨r, hr, rfl⟩ := backendInto_eq_some hu
  exact ⟨r, hr, rfl⟩

/-- A row of the micro-program reduces and writes `T`, `C` or `D`: `C` in micro-step 2, `D` in micro-step 4 (rule R189). -/
theorem microProgram_row {u : Fin 7} {m : MicroOp} (h : microProgram u = some m) :
    m.op.reducing = true ∧ u.val < 6 ∧ (m.dst = .T ∨ m.dst = .C ∨ m.dst = .D) ∧
      (u.val = 2 → m.dst = .C) ∧ (u.val = 4 → m.dst = .D) := by
  unfold microProgram at h
  split at h <;> cases h <;> decide

theorem microProgram_none : ∀ {u : Fin 7}, microProgram u = none → u = 6 := by decide

theorem nextLevel_eq (s : State) {l : Nat} (h : l = (s.lvl - 1) % 2 ^ Config.lvlW s.L) :
    nextLevel s = moveTo (phaseAt l) l 0 s := by
  subst h
  rfl

theorem fibDesc_eq_next {ln : Lane} {s t : State} (hp : s.phase = .desc) (h : fibDesc ln s = .next t) : FibStep ln s t := by
  unfold fibDesc at h
  split at h
  · rename_i hk
    obtain ⟨r, hr, rfl⟩ := afterBackendInto_eq_next h
    have e : moveTo .desc ((s.lvl + 1) % 2 ^ Config.lvlW s.L) s.upc (s.wr ln .K r) =
        (s.wr ln .K r).setLvl ((s.wr ln .K r).lvl + 1) := by
      simp [moveTo, State.setLvl, ← hp]
    exact e ▸ .halve r hp hk hr
  · rename_i hk
    cases h
    exact .turn hp (by simpa using hk)

theorem fibBase_eq_next {ln : Lane} {s t : State} (hp : s.phase = .base) (h : fibBase ln s = .next t) : FibStep ln s t := by
  unfold fibBase at h
  obtain ⟨r, hr, rfl⟩ := afterBackendInto_eq_next h
  rw [State.rd_wr_other_reg _ _ _ (by decide)] at hr
  simpa [moveTo, phaseAt] using FibStep.base r hp hr

theorem fibSelect_eq_next {ln : Lane} {s t : State} (hp : s.phase = .asc) (hu : s.upc = 6) (h : fibSelect ln s = .next t) :
    FibStep ln s t := by
  unfold fibSelect at h
  split at h
  · cases h
  rename_i hl
  split at h
  · rename_i hb
    obtain ⟨r, hr, rfl⟩ := afterBackendInto_eq_next h
    rw [State.rd_wr_other_reg _ _ _ (by decide)] at hr
    rw [nextLevel_eq (l := (s.lvl - 1) % 2 ^ Config.lvlW s.L) _ (by simp)]
    exact .odd _ r hp hu hl rfl hb hr
  · rename_i hb
    cases h
    rw [nextLevel_eq (l := (s.lvl - 1) % 2 ^ Config.lvlW s.L) _ (by simp)]
    exact .even _ hp hu hl rfl (by simpa using hb)

theorem fibAsc_eq_next {ln : Lane} {s t : State} (hp : s.phase = .asc) (h : fibAsc ln s = .next t) : FibStep ln s t := by
  unfold fibAsc at h
  split at h
  · rename_i m hm
    obtain ⟨r, hr, rfl⟩ := afterBackendInto_eq_next h
    have e : moveTo .asc s.lvl (s.upc + 1) (s.wr ln m.dst r) =
        { s.wr ln m.dst r with upc := (s.wr ln m.dst r).upc + 1 } := by
      simp [moveTo, ← hp]
    exact e ▸ .row m r hp hm hr
  · rename_i hm
    exact fibSelect_eq_next hp (microProgram_none hm) h

/-- Everything a `FIB` in flight can go on to. -/
theorem fibCommand_eq_next {i : Instr} {ln : Lane} {s t : State} (hp : s.phase ≠ .idle)
    (h : fibCommand i ln s = .next t) : FibStep ln s t := by
  unfold fibCommand at h
  split at h <;> rename_i hq
  · exact absurd hq hp
  · cases h
  · exact fibDesc_eq_next hq h
  · exact fibBase_eq_next hq h
  · exact fibAsc_eq_next hq h
  · cases h
    exact .fin hq

/-! #### What a command can do next (rules R221, R223) -/

/-- The next actions of command `i` from state `s`, each with what it asks of `s` and where it goes. -/
inductive ExecStep (i : Instr) (s : State) : State → Prop
  /-- Refused at issue (rule R221, case 3). -/
  | refuse : s.phase = .idle → ExecStep i s (refuseCommand .invalidArgument s)
  /-- A primitive command accepted (rule R221, case 4). -/
  | accept : s.phase = .idle → i.isFib = false → ¬(i.reducing = true ∧ s.rd i.lane .M = 0) →
      ExecStep i s (moveTo .exec 0 0 (latchCommand i s))
  /-- A `FIB` accepted (rules R186, R221). -/
  | acceptFib : s.phase = .idle → i.isFib = true → ¬(i.reducing = true ∧ s.rd i.lane .M = 0) →
      ExecStep i s (moveTo .desc 0 0 ((latchCommand i s).wr i.lane .K (s.rd i.lane .N)))
  /-- The micro-step of `NOP` (rule R220). -/
  | nop : s.phase = .exec → i.isFib = false → ExecStep i s (complete s)
  /-- The micro-step of a primitive command (rule R223). -/
  | primitive (op : BeOp) (ans : BeAnswer) : s.phase = .exec → i.isFib = false → op.code = i.opCode →
      backend i.lane op (s.rd i.lane .X) (s.rd i.lane .Y) (s.rd i.lane .M) = some ans →
      ExecStep i s (complete (routeAnswer i.lane ans s))
  /-- A micro-step of a `FIB`. -/
  | fib (t : State) : s.phase ≠ .idle → i.isFib = true → FibStep i.lane s t → ExecStep i s t

theorem acceptPrimitive_eq (i : Instr) (s : State) : acceptPrimitive i s = moveTo .exec 0 0 (latchCommand i s) := by
  simp [acceptPrimitive, State.setSeq, moveTo]

theorem acceptFib_eq (i : Instr) (ln : Lane) (s : State) :
    acceptFib i ln s = moveTo .desc 0 0 ((latchCommand i s).wr ln .K (s.rd ln .N)) := by
  simp [acceptFib, State.setSeq, moveTo]

theorem execNop_eq_next {s t : State} (hp : s.phase ≠ .idle) (h : execNop s = .next t) :
    s.phase = .exec ∧ t = complete s := by
  unfold execNop at h
  split at h <;> rename_i hq
  · exact absurd hq hp
  · cases h
    exact ⟨hq, rfl⟩
  all_goals cases h

/-- Everything a command can go on to. -/
theorem exec_eq_next {i : Instr} {s t : State} (h : exec i s = .next t) : ExecStep i s t := by
  by_cases hp : s.phase = .idle
  · rw [exec_idle i hp] at h
    cases h
    obtain ⟨-, -, e⟩ | ⟨hm, e⟩ :=
      issueChecked_cases i i.lane (if i.isFib then acceptFib i i.lane else acceptPrimitive i) s
    · rw [e]
      exact .refuse hp
    · rw [e]
      split
      · rename_i hf
        exact acceptFib_eq i i.lane s ▸ .acceptFib hp hf hm
      · rename_i hf
        exact acceptPrimitive_eq i s ▸ .accept hp (by simpa using hf) hm
  · obtain ⟨rfl, e⟩ | ⟨hf, -, op, hop, -, e⟩ | ⟨hf, -, e⟩ := exec_forms i
    · obtain ⟨hx, rfl⟩ := execNop_eq_next hp (e s ▸ h)
      exact .nop hx rfl
    · obtain ⟨hq, -⟩ | ⟨hx, ans, hans, rfl⟩ := primitiveCommand_eq_next (e s ▸ h)
      · exact absurd hq hp
      · exact .primitive op ans hx hf hop hans
    · exact .fib t hp hf (fibCommand_eq_next hp (e s ▸ h))

/-! #### The invariant, part by part

`Safety.Inv` (rule R36 and what makes it inductive) is the capacity, the bookkeeping of `STATUS`, and one condition on the
controller for each phase of the latched command. In this form a step has to be followed in its own phase only. -/

/-- The bookkeeping of `STATUS`: (a) and (c) of rule R36, a real code while `ERR` = 1, and `GT`, `EQ` never both 1. -/
structure StatusInv (s : State) : Prop where
  busy_not_done : s.busy = true → s.done = false
  no_code : s.err = false → s.errcode = 0
  code : s.err = true → s.errcode = 1 ∨ s.errcode = 2 ∨ s.errcode = 3
  flags : ¬(s.gt = true ∧ s.eq = true)

/-- What holds in every phase of a `FIB`: the latched command `i` is one, and its modulus is not 0. -/
structure FibGuard (i : Instr) (s : State) : Prop where
  isFib : i.isFib = true
  modulus : s.rd i.lane .M ≠ 0

/-- The pair of a `FIB` is reduced (rule R36 (e)). -/
def PairReduced (ln : Lane) (s : State) : Prop := s.rd ln .A < s.rd ln .M ∧ s.rd ln .B < s.rd ln .M

/-- `IDLE`: the controller is at rest (rule R25). -/
structure IdleInv (s : State) : Prop where
  lvl : s.lvl = 0
  upc : s.upc = 0

/-- `EXEC`: a command other than `FIB`, with a modulus where it reduces (rules R36 (b), (f), R223). -/
structure ExecInv (i : Instr) (s : State) : Prop where
  primitive : i.isFib = false
  modulus : i.reducing = true → s.rd i.lane .M ≠ 0
  lvl : s.lvl = 0
  upc : s.upc = 0

/-- `DESC`: the index has been halved `LVL` times (rule R187). -/
structure DescInv (i : Instr) (s : State) : Prop where
  guard : FibGuard i s
  upc : s.upc = 0
  index : s.rd i.lane .K = s.rd i.lane .N / 2 ^ s.lvl
  lvl : s.lvl ≤ bitlen (s.rd i.lane .N)

/-- `BASE`: one level for each bit of the index (rule R188). -/
structure BaseInv (i : Instr) (s : State) : Prop where
  guard : FibGuard i s
  upc : s.upc = 0
  lvl : s.lvl = bitlen (s.rd i.lane .N)

/-- `ASC`: a level is left, the pair is reduced, and so are `C` and `D` once written (rules R184, R189). -/
structure AscInv (i : Instr) (s : State) : Prop where
  guard : FibGuard i s
  pos : 1 ≤ s.lvl
  lvl : s.lvl ≤ bitlen (s.rd i.lane .N)
  pair : PairReduced i.lane s
  c : 3 ≤ s.upc.val → s.rd i.lane .C < s.rd i.lane .M
  d : 5 ≤ s.upc.val → s.rd i.lane .D < s.rd i.lane .M

/-- `FIN`: no level is left and the pair is reduced (rule R192). -/
structure FinInv (i : Instr) (s : State) : Prop where
  guard : FibGuard i s
  lvl : s.lvl = 0
  upc : s.upc = 0
  pair : PairReduced i.lane s

/-- The condition on the controller and its lane, phase by phase, `i` being the latched command. -/
def PhaseInv (i : Instr) (s : State) : Prop :=
  match s.phase with
  | .idle => IdleInv s
  | .exec => ExecInv i s
  | .desc => DescInv i s
  | .base => BaseInv i s
  | .asc => AscInv i s
  | .fin => FinInv i s

section
variable {i : Instr} {s : State}

theorem phaseInv_idle (h : s.phase = .idle) : PhaseInv i s ↔ IdleInv s := by simp only [PhaseInv, h]
theorem phaseInv_exec (h : s.phase = .exec) : PhaseInv i s ↔ ExecInv i s := by simp only [PhaseInv, h]
theorem phaseInv_desc (h : s.phase = .desc) : PhaseInv i s ↔ DescInv i s := by simp only [PhaseInv, h]
theorem phaseInv_base (h : s.phase = .base) : PhaseInv i s ↔ BaseInv i s := by simp only [PhaseInv, h]
theorem phaseInv_asc (h : s.phase = .asc) : PhaseInv i s ↔ AscInv i s := by simp only [PhaseInv, h]
theorem phaseInv_fin (h : s.phase = .fin) : PhaseInv i s ↔ FinInv i s := by simp only [PhaseInv, h]

theorem statusInv_of_inv (h : Inv s) : StatusInv s := ⟨h.busy_not_done, h.no_code, h.code, h.flags⟩

/-- In a phase of `FIB` the latched command is one (rule R36 (f)), and its modulus is not 0 (rule R36 (b)). -/
theorem fibGuard_of_inv (h : Inv s) (hi : Latched s i)
    (hp : s.phase = .desc ∨ s.phase = .base ∨ s.phase = .asc ∨ s.phase = .fin) : FibGuard i s := by
  have hf : i.isFib = true := by
    rw [← opCode_toNat_eq_nine_iff, ← (fields_of_decode hi).2]
    exact h.fib_phase hp
  have hb : s.busy = true := by
    rw [s.busy_eq_true_iff]
    rcases hp with hp | hp | hp | hp <;> simp [hp]
  exact ⟨hf, h.modulus i hi hb (reducing_of_isFib hf)⟩

/-- The invariant holds the condition on the phase, whichever the phase is. -/
theorem phaseInv_of_inv (h : Inv s) (hi : Latched s i) : PhaseInv i s := by
  cases hp : s.phase
  case idle => exact (phaseInv_idle hp).2 ⟨h.level_zero (by simp [hp]), h.upc_zero (by simp [hp])⟩
  case exec =>
    have hf : ¬i.isFib = true := by
      rw [← opCode_toNat_eq_nine_iff, ← (fields_of_decode hi).2]
      have := h.exec_phase hp
      omega
    exact (phaseInv_exec hp).2 ⟨by simpa using hf, h.modulus i hi (by simp [s.busy_eq_true_iff, hp]),
      h.level_zero (by simp [hp]), h.upc_zero (by simp [hp])⟩
  case desc =>
    obtain ⟨hk, hl⟩ := h.desc_level i hi hp
    exact (phaseInv_desc hp).2 ⟨fibGuard_of_inv h hi (by simp [hp]), h.upc_zero (by simp [hp]), hk, hl⟩
  case base =>
    exact (phaseInv_base hp).2 ⟨fibGuard_of_inv h hi (by simp [hp]), h.upc_zero (by simp [hp]), h.base_level i hi hp⟩
  case asc =>
    obtain ⟨hpos, hl⟩ := h.asc_level i hi hp
    obtain ⟨hc, hd⟩ := h.asc_reduced i hi hp
    exact (phaseInv_asc hp).2 ⟨fibGuard_of_inv h hi (by simp [hp]), hpos, hl, h.reduced i hi (by simp [hp]), hc, hd⟩
  case fin =>
    exact (phaseInv_fin hp).2 ⟨fibGuard_of_inv h hi (by simp [hp]), h.level_zero (by simp [hp]), h.upc_zero (by simp [hp]),
      h.reduced i hi (by simp [hp])⟩

/-- A busy phase other than `EXEC` is one of a `FIB`, whose guard then holds. -/
theorem PhaseInv.fibGuard (h : PhaseInv i s) (hi : s.phase ≠ .idle) (he : s.phase ≠ .exec) : FibGuard i s := by
  cases hp : s.phase
  case idle => exact absurd hp hi
  case exec => exact absurd hp he
  case desc => exact ((phaseInv_desc hp).1 h).guard
  case base => exact ((phaseInv_base hp).1 h).guard
  case asc => exact ((phaseInv_asc hp).1 h).guard
  case fin => exact ((phaseInv_fin hp).1 h).guard

/-- The level count fits the lane (rule R36 (g)): the index has no more bits than its register. -/
theorem PhaseInv.lvl_le (h : PhaseInv i s) (hc : Capacity s) : s.lvl ≤ s.XW i.lane := by
  have hN : bitlen (s.rd i.lane .N) ≤ s.XW i.lane := (bitlen_le_iff _ _).2 (rd_lt hc i.lane .N)
  cases hp : s.phase
  case idle => exact ((phaseInv_idle hp).1 h).lvl ▸ Nat.zero_le _
  case exec => exact ((phaseInv_exec hp).1 h).lvl ▸ Nat.zero_le _
  case desc => exact ((phaseInv_desc hp).1 h).lvl.trans hN
  case base => exact ((phaseInv_base hp).1 h).lvl.trans_le hN
  case asc => exact ((phaseInv_asc hp).1 h).lvl.trans hN
  case fin => exact ((phaseInv_fin hp).1 h).lvl ▸ Nat.zero_le _

/-- Outside `ASC` the micro-program stands at its start. -/
theorem PhaseInv.upc_zero (h : PhaseInv i s) (hp : s.phase ≠ .asc) : s.upc = 0 := by
  cases hq : s.phase
  case idle => exact ((phaseInv_idle hq).1 h).upc
  case exec => exact ((phaseInv_exec hq).1 h).upc
  case desc => exact ((phaseInv_desc hq).1 h).upc
  case base => exact ((phaseInv_base hq).1 h).upc
  case asc => exact absurd hq hp
  case fin => exact ((phaseInv_fin hq).1 h).upc

/-- Rule R36 from the parts. -/
theorem rule36_of_parts (hc : Capacity s) (hs : StatusInv s) (hi : Latched s i) (h : PhaseInv i s) : Rule36 s := by
  obtain ⟨hw, hop⟩ := fields_of_decode hi
  constructor
  case busy_not_done => exact hs.busy_not_done
  case no_code => exact hs.no_code
  case cmd_bits => exact ⟨hw, hop ▸ opCode_toNat_le_nine i⟩
  case modulus =>
    intro j hj hb hr
    obtain rfl := latched_unique hi hj
    by_cases he : s.phase = .exec
    · exact ((phaseInv_exec he).1 h).modulus hr
    · exact (h.fibGuard ((s.busy_eq_true_iff).1 hb) he).modulus
  case reduced =>
    rintro j hj (hp | hp) <;> obtain rfl := latched_unique hi hj
    · exact ((phaseInv_asc hp).1 h).pair
    · exact ((phaseInv_fin hp).1 h).pair
  case fib_phase =>
    intro hp
    have hf : FibGuard i s := h.fibGuard (fun e => by simp [e] at hp) (fun e => by simp [e] at hp)
    rw [hop, opCode_toNat_eq_nine_iff]
    exact hf.isFib
  case exec_phase =>
    intro hp
    have hf : i.opCode.toNat ≠ 9 := by simp [opCode_toNat_eq_nine_iff, ((phaseInv_exec hp).1 h).primitive]
    have := opCode_toNat_le_nine i
    omega
  case level =>
    intro j hj
    obtain rfl := latched_unique hi hj
    exact h.lvl_le hc

/-- The parts make the invariant. -/
theorem inv_of_parts (hc : Capacity s) (hs : StatusInv s) (hi : Latched s i) (h : PhaseInv i s) : Inv s := by
  constructor
  case toRule36 => exact rule36_of_parts hc hs hi h
  case capacity => exact hc
  case cmd_legal => exact ⟨i, hi⟩
  case code => exact hs.code
  case flags => exact hs.flags
  case level_zero =>
    rintro (hp | hp | hp)
    · exact ((phaseInv_idle hp).1 h).lvl
    · exact ((phaseInv_exec hp).1 h).lvl
    · exact ((phaseInv_fin hp).1 h).lvl
  case upc_zero => exact h.upc_zero
  case desc_level =>
    intro j hj hp
    obtain rfl := latched_unique hi hj
    exact ⟨((phaseInv_desc hp).1 h).index, ((phaseInv_desc hp).1 h).lvl⟩
  case base_level =>
    intro j hj hp
    obtain rfl := latched_unique hi hj
    exact ((phaseInv_base hp).1 h).lvl
  case asc_level =>
    intro j hj hp
    obtain rfl := latched_unique hi hj
    exact ⟨((phaseInv_asc hp).1 h).pos, ((phaseInv_asc hp).1 h).lvl⟩
  case asc_reduced =>
    intro j hj hp
    obtain rfl := latched_unique hi hj
    exact ⟨((phaseInv_asc hp).1 h).c, ((phaseInv_asc hp).1 h).d⟩

end

/-! #### What an action leaves unchanged (rules R23, R24, R37) -/

/-- From `s` to `t` no register changes but those of lane `ln` that `W` names; `L`, `CTRL` and the host's data stay too. -/
structure Frame (ln : Lane) (W : Reg → Prop) (s t : State) : Prop where
  L : t.L = s.L
  ieDone : t.ieDone = s.ieDone
  ieErr : t.ieErr = s.ieErr
  program : t.program = s.program
  schedule : t.schedule = s.schedule
  reads : t.reads = s.reads
  regs : ∀ ln' r, ln' ≠ ln ∨ ¬W r → t.rd ln' r = s.rd ln' r

namespace Frame

variable {ln : Lane} {W : Reg → Prop} {s t : State}

theorem refl (ln : Lane) (W : Reg → Prop) (s : State) : Frame ln W s s :=
  ⟨rfl, rfl, rfl, rfl, rfl, rfl, fun _ _ _ => rfl⟩

theorem mono {W' : Reg → Prop} (h : Frame ln W s t) (hW : ∀ r, W r → W' r) : Frame ln W' s t :=
  ⟨h.L, h.ieDone, h.ieErr, h.program, h.schedule, h.reads, fun ln' r hr => h.regs ln' r (hr.imp_right (mt (hW r)))⟩

theorem wr (h : Frame ln W s t) {r : Reg} (hr : W r) (v : Nat) : Frame ln W s (t.wr ln r v) := by
  refine ⟨by simp [h.L], by simp [h.ieDone], by simp [h.ieErr], by simp [h.program], by simp [h.schedule],
    by simp [h.reads], fun ln' r' hr' => ?_⟩
  have hne : (ln, r) ≠ (ln', r') := by
    rintro ⟨⟩
    exact hr'.elim (absurd rfl) (absurd hr)
  rw [rd_wr_of_ne t v hne, h.regs ln' r' hr']

theorem moveTo (h : Frame ln W s t) (p : Phase) (l : Nat) (u : Fin 7) : Frame ln W s (moveTo p l u t) :=
  ⟨h.L, h.ieDone, h.ieErr, h.program, h.schedule, h.reads, h.regs⟩

theorem latchCommand (h : Frame ln W s t) (i : Instr) : Frame ln W s (latchCommand i t) :=
  ⟨h.L, h.ieDone, h.ieErr, h.program, h.schedule, h.reads, h.regs⟩

theorem complete (h : Frame ln W s t) : Frame ln W s (complete t) :=
  ⟨h.L, h.ieDone, h.ieErr, h.program, h.schedule, h.reads, h.regs⟩

theorem refuseCommand (h : Frame ln W s t) (e : BusError) : Frame ln W s (refuseCommand e t) := by
  unfold Machine.refuseCommand
  exact ⟨by simp [h.L], by simp [h.ieDone], by simp [h.ieErr], by simp [h.program], by simp [h.schedule],
    by simp [h.reads], fun ln' r hr => (raise_rd _ _ _ _).trans (h.regs ln' r hr)⟩

/-- An answer goes to `R` or to the flags (rule R97). -/
theorem routeAnswer (h : Frame ln W s t) (hR : W .R) (ans : BeAnswer) : Frame ln W s (routeAnswer ln ans t) := by
  cases ans with
  | value r => exact h.wr hR r
  | order g e => exact ⟨h.L, h.ieDone, h.ieErr, h.program, h.schedule, h.reads, h.regs⟩
  | parity e => exact ⟨h.L, h.ieDone, h.ieErr, h.program, h.schedule, h.reads, h.regs⟩

end Frame

/-- Not an operand: the result or a working register (rules R21, R22, R26). -/
def NotOperand (r : Reg) : Prop := r.hostWritable = false

/-- A micro-step of `FIB` writes no operand and nothing of the other lane. -/
theorem FibStep.frame {ln : Lane} {s t : State} (h : FibStep ln s t) : Frame ln NotOperand s t := by
  have h0 : Frame ln NotOperand s s := .refl ln NotOperand s
  cases h with
  | halve r => exact (h0.wr (by rfl) r).moveTo ..
  | turn => exact h0.moveTo ..
  | base r => exact ((h0.wr (by rfl) 0).wr (by rfl) r).moveTo ..
  | row m r _ hm =>
    have hdst : NotOperand m.dst := by
      obtain ⟨-, -, e | e | e, -⟩ := microProgram_row hm <;> rw [e] <;> rfl
    exact (h0.wr hdst r).moveTo ..
  | odd l r => exact ((h0.wr (by rfl) _).wr (by rfl) r).moveTo ..
  | even l => exact ((h0.wr (by rfl) _).wr (by rfl) _).moveTo ..
  | fin => exact (h0.wr (by rfl) _).complete

/-- A command other than `FIB` writes no register but its lane's `R`. -/
theorem ExecStep.frame_primitive {i : Instr} {s t : State} (h : ExecStep i s t) (hi : i.isFib = false) :
    Frame i.lane (· = .R) s t := by
  have h0 : Frame i.lane (· = .R) s s := .refl ..
  cases h with
  | refuse => exact h0.refuseCommand _
  | accept => exact (h0.latchCommand i).moveTo ..
  | acceptFib _ hf => simp [hi] at hf
  | nop => exact h0.complete
  | primitive op ans => exact (h0.routeAnswer rfl ans).complete
  | fib _ _ hf => simp [hi] at hf

/-- No command writes an operand or anything of the other lane. -/
theorem ExecStep.frame {i : Instr} {s t : State} (h : ExecStep i s t) : Frame i.lane NotOperand s t := by
  cases hf : i.isFib with
  | false =>
    refine (h.frame_primitive hf).mono fun r hr => ?_
    rw [hr]
    rfl
  | true =>
    have h0 : Frame i.lane NotOperand s s := .refl ..
    cases h with
    | refuse => exact h0.refuseCommand _
    | acceptFib => exact ((h0.latchCommand i).wr (by rfl) _).moveTo ..
    | fib _ _ _ h => exact h.frame
    | accept _ hf' => simp [hf] at hf'
    | nop _ hf' => simp [hf] at hf'
    | primitive _ _ _ hf' => simp [hf] at hf'

/-- In flight a command keeps the error record and `CMD` (rules R24, R37). -/
theorem ExecStep.record {i : Instr} {s t : State} (h : ExecStep i s t) (hp : s.phase ≠ .idle) :
    t.err = s.err ∧ t.errcode = s.errcode ∧ t.cmd = s.cmd := by
  cases h with
  | refuse hi => exact absurd hi hp
  | accept hi => exact absurd hi hp
  | acceptFib hi => exact absurd hi hp
  | nop => simp
  | primitive => simp
  | fib _ _ _ h => cases h <;> simp

/-- `FIB` keeps the flags (rule R30). -/
theorem FibStep.flags {ln : Lane} {s t : State} (h : FibStep ln s t) : t.gt = s.gt ∧ t.eq = s.eq ∧ t.ev = s.ev := by
  cases h <;> simp

/-- A command changes `GT` and `EQ` only as a `CMP`, and `EV` only as an `ISEVEN` (rule R30). -/
theorem ExecStep.flags {i : Instr} {s t : State} (h : ExecStep i s t) :
    ((i = .cmpF ∨ i = .cmpB) ∨ (t.gt = s.gt ∧ t.eq = s.eq)) ∧ ((i = .isevenF ∨ i = .isevenB) ∨ t.ev = s.ev) := by
  cases h with
  | refuse => simp [refuseCommand]
  | accept => simp
  | acceptFib => simp
  | nop => simp
  | primitive op ans _ _ hop hans =>
    cases ans with
    | value r => simp [routeAnswer]
    | order g e =>
      obtain ⟨rfl, -⟩ := backend_order hans
      exact ⟨.inl (eq_cmp_of_opCode hop), .inr rfl⟩
    | parity e =>
      obtain rfl := backend_parity hans
      exact ⟨.inr ⟨rfl, rfl⟩, .inl (eq_iseven_of_opCode hop)⟩
  | fib _ _ _ h =>
    obtain ⟨hg, he, hv⟩ := h.flags
    exact ⟨.inr ⟨hg, he⟩, .inr hv⟩

/-- Settles O56: the frame of every action, and the record kept in flight. -/
theorem commandsKeepOperandsAndTheOtherLane : Obligations.CommandsKeepOperandsAndTheOtherLane := by
  intro i s t h
  have hx := exec_eq_next h
  have hf := hx.frame
  have operand (ln : Lane) {r : Reg} (hr : r.hostWritable = true) : t.rd ln r = s.rd ln r :=
    hf.regs ln r (.inr (by simp [NotOperand, hr]))
  exact ⟨hf.L, hf.ieDone, hf.ieErr, hf.program, hf.schedule, hf.reads,
    fun ln => ⟨operand ln rfl, operand ln rfl, operand ln rfl, operand ln rfl⟩,
    fun ln r hne => hf.regs ln r (.inl hne), hx.record⟩

/-- Settles O57: the flags by the kind of answer, the working registers by the frame of the commands other than `FIB`. -/
theorem onlyCmpAndIsevenWriteFlags : Obligations.OnlyCmpAndIsevenWriteFlags := by
  intro i s t h
  have hx := exec_eq_next h
  obtain ⟨horder, hparity⟩ := hx.flags
  refine ⟨fun hF hB => horder.resolve_left (by simp [hF, hB]), fun hF hB => hparity.resolve_left (by simp [hF, hB]),
    fun hF hB ln r hr => ?_⟩
  refine (hx.frame_primitive (isFib_eq_false hF hB)).regs ln r (.inr ?_)
  rintro rfl
  cases hr

/-! #### Every action keeps the invariant -/

section
variable {i : Instr} {s t : State}

theorem capacity_moveTo (h : Capacity s) (p : Phase) (l : Nat) (u : Fin 7) : Capacity (moveTo p l u s) :=
  capacity_congr (s := s) rfl rfl h

theorem capacity_complete (h : Capacity s) : Capacity (complete s) := capacity_congr (s := s) rfl rfl h

/-- The capacity outlives every micro-step of `FIB`: registers are written to their width (rule R140). -/
theorem FibStep.capacity {ln : Lane} (h : FibStep ln s t) (hc : Capacity s) : Capacity t := by
  cases h with
  | halve r => exact capacity_moveTo (capacity_wr hc ..) ..
  | turn => exact capacity_moveTo hc ..
  | base r => exact capacity_moveTo (capacity_wr (capacity_wr hc ..) ..) ..
  | row m r => exact capacity_moveTo (capacity_wr hc ..) ..
  | odd l r => exact capacity_moveTo (capacity_wr (capacity_wr hc ..) ..) ..
  | even l => exact capacity_moveTo (capacity_wr (capacity_wr hc ..) ..) ..
  | fin => exact capacity_complete (capacity_wr hc ..)

/-- The guard of a `FIB` stays where the lane's modulus does. -/
theorem FibGuard.of_modulus (h : FibGuard i s) (hm : t.rd i.lane .M = s.rd i.lane .M) : FibGuard i t :=
  ⟨h.isFib, hm ▸ h.modulus⟩

/-- A value below the modulus fits its lane. -/
theorem lt_XW_of_lt_modulus {ln : Lane} {x : Nat} (hc : Capacity s) (hx : x < s.rd ln .M) : x < 2 ^ s.XW ln :=
  hx.trans (rd_lt hc ln .M)

/-- A reducing operation of the controller gives a value below the modulus. -/
theorem backendValue_lt_modulus {ln : Lane} {op : BeOp} {a b r : Nat} (hop : op.reducing = true) (hm : s.rd ln .M ≠ 0)
    (h : backendValue ln op a b (s.rd ln .M) = some r) : r < s.rd ln .M :=
  backendValue_lt hop hm (by rintro rfl; exact s.rd_f_lt .M) h

/-- Loading a reduced pair, as `BASE` and micro-step 6 do, and moving on to the level reached. -/
theorem phaseInv_loadPair {l x y : Nat} (hc : Capacity s) (hg : FibGuard i s) (hl : l ≤ bitlen (s.rd i.lane .N))
    (hx : x < s.rd i.lane .M) (hy : y < s.rd i.lane .M) :
    PhaseInv i (moveTo (phaseAt l) l 0 ((s.wr i.lane .A x).wr i.lane .B y)) := by
  have hx' := lt_XW_of_lt_modulus hc hx
  have hy' : y < 2 ^ (s.wr i.lane .A x).XW i.lane := by simpa using lt_XW_of_lt_modulus hc hy
  have hg' : FibGuard i (moveTo (phaseAt l) l 0 ((s.wr i.lane .A x).wr i.lane .B y)) :=
    hg.of_modulus (by simp [State.rd_wr_other_reg])
  have hpair : PairReduced i.lane (moveTo (phaseAt l) l 0 ((s.wr i.lane .A x).wr i.lane .B y)) := by
    simp [PairReduced, State.rd_wr_other_reg, State.rd_wr_fits hx', State.rd_wr_fits hy', hx, hy]
  by_cases h0 : l = 0
  · exact (phaseInv_fin (by simp [phaseAt, h0])).2 ⟨hg', h0, rfl, hpair⟩
  · exact (phaseInv_asc (by simp [phaseAt, h0])).2
      ⟨hg', by simp; omega, by simpa [State.rd_wr_other_reg] using hl, hpair, by simp, by simp⟩

/-- A halving keeps the copy of the index in step with the level count (rule R187). -/
theorem phaseInv_halve {r : Nat} (hc : Capacity s) (h : DescInv i s) (hk : s.rd i.lane .K ≠ 0)
    (hr : backendValue i.lane .halve (s.rd i.lane .K) 0 (s.rd i.lane .M) = some r) :
    PhaseInv i (moveTo .desc ((s.lvl + 1) % 2 ^ Config.lvlW s.L) s.upc (s.wr i.lane .K r)) := by
  have hK := rd_lt hc i.lane .K
  obtain rfl : r = s.rd i.lane .K / 2 := backendValue_halve (fun e => by simpa [e] using hK) hr
  have hlt : s.lvl + 1 ≤ bitlen (s.rd i.lane .N) := by
    have := mt (div_two_pow_eq_zero_iff (s.rd i.lane .N) s.lvl).2 (h.index ▸ hk)
    omega
  have hN : bitlen (s.rd i.lane .N) ≤ s.XW i.lane := (bitlen_le_iff _ _).2 (rd_lt hc i.lane .N)
  rw [Nat.mod_eq_of_lt (State.lt_lvlW (hlt.trans hN))]
  refine (phaseInv_desc rfl).2 ⟨h.guard.of_modulus (by simp [State.rd_wr_other_reg]), h.upc, ?_, ?_⟩
  · rw [moveTo_rd, moveTo_rd, State.rd_wr_fits (by omega), State.rd_wr_other_reg _ _ _ (by decide), h.index,
      Nat.div_div_eq_div_mul, moveTo_lvl, pow_succ]
  · simpa [State.rd_wr_other_reg] using hlt

/-- A row of the micro-program leaves `C` and `D` reduced from the micro-step on that writes them (rules R184, R189). -/
theorem phaseInv_row {m : MicroOp} {r : Nat} (hc : Capacity s) (h : AscInv i s) (hm : microProgram s.upc = some m)
    (hr : backendValue i.lane m.op (s.rd i.lane m.a) (s.rd i.lane m.b) (s.rd i.lane .M) = some r) :
    PhaseInv i (moveTo .asc s.lvl (s.upc + 1) (s.wr i.lane m.dst r)) := by
  obtain ⟨hop, hu, hdst, hC, hD⟩ := microProgram_row hm
  have hlt : r < s.rd i.lane .M := backendValue_lt_modulus hop h.guard.modulus hr
  have hu' : (s.upc + 1).val = s.upc.val + 1 := Fin.val_add_one_of_lt (Fin.lt_def.2 hu)
  have keep {r' : Reg} (hne : r' ≠ m.dst) : (s.wr i.lane m.dst r).rd i.lane r' = s.rd i.lane r' :=
    State.rd_wr_other_reg s i.lane r hne
  have outside {r' : Reg} (h' : r' ≠ .T ∧ r' ≠ .C ∧ r' ≠ .D) :
      (s.wr i.lane m.dst r).rd i.lane r' = s.rd i.lane r' :=
    keep (by rcases hdst with e | e | e <;> simp [e, h'])
  have hM := outside (r' := .M) (by decide)
  have reduced {r' : Reg} {k : Nat} (hw : s.upc.val + 1 = k → m.dst = r')
      (hs : k ≤ s.upc.val → s.rd i.lane r' < s.rd i.lane .M) (hk : k ≤ (s.upc + 1).val) :
      (s.wr i.lane m.dst r).rd i.lane r' < (s.wr i.lane m.dst r).rd i.lane .M := by
    rw [hM]
    by_cases e : r' = m.dst
    · rw [e, State.rd_wr_fits (lt_XW_of_lt_modulus hc hlt)]
      exact hlt
    · rw [keep e]
      exact hs (by have := mt hw (Ne.symm e); omega)
  refine (phaseInv_asc rfl).2 ⟨h.guard.of_modulus hM, h.pos, ?_, ?_, ?_, ?_⟩
  · simpa [outside (r' := .N) (by decide)] using h.lvl
  · simpa [PairReduced, hM, outside (r' := .A) (by decide), outside (r' := .B) (by decide)] using h.pair
  · exact reduced (fun e => hC (by omega)) h.c
  · exact reduced (fun e => hD (by omega)) h.d

/-- The level count that micro-step 6 goes down to, as its register takes it, is in range (rule R190). -/
theorem AscInv.previous_lvl_le (h : AscInv i s) (n : Nat) : (s.lvl - 1) % n ≤ bitlen (s.rd i.lane .N) :=
  (Nat.mod_le _ n).trans ((Nat.sub_le _ 1).trans h.lvl)

/-- Every micro-step of `FIB` keeps the condition on the phases. -/
theorem FibStep.phaseInv (h : FibStep i.lane s t) (hc : Capacity s) (hp : PhaseInv i s) : PhaseInv i t := by
  cases h with
  | halve r hq hk hr => exact phaseInv_halve hc ((phaseInv_desc hq).1 hp) hk hr
  | turn hq hk =>
    obtain ⟨hg, hu, hidx, hl⟩ := (phaseInv_desc hq).1 hp
    have hle := (div_two_pow_eq_zero_iff _ _).1 (hidx ▸ hk)
    exact (phaseInv_base rfl).2 ⟨hg.of_modulus rfl, hu, le_antisymm hl hle⟩
  | base r hq hr =>
    obtain ⟨hg, -, hl⟩ := (phaseInv_base hq).1 hp
    exact phaseInv_loadPair hc hg hl.le (Nat.pos_of_ne_zero hg.modulus) (backendValue_lt_modulus rfl hg.modulus hr)
  | row m r hq hm hr => exact phaseInv_row hc ((phaseInv_asc hq).1 hp) hm hr
  | odd _ r hq hu _ hl _ hr =>
    have ha := (phaseInv_asc hq).1 hp
    rw [hl]
    exact phaseInv_loadPair hc ha.guard (ha.previous_lvl_le _) (ha.d (by simp [hu]))
      (backendValue_lt_modulus rfl ha.guard.modulus hr)
  | even _ hq hu _ hl =>
    have ha := (phaseInv_asc hq).1 hp
    rw [hl]
    exact phaseInv_loadPair hc ha.guard (ha.previous_lvl_le _) (ha.c (by simp [hu])) (ha.d (by simp [hu]))
  | fin hq =>
    obtain ⟨-, hl, hu, -⟩ := (phaseInv_fin hq).1 hp
    exact (phaseInv_idle rfl).2 ⟨by simpa using hl, by simpa using hu⟩

end

/-! #### The parts of the invariant under the shared operations -/

section
variable {i : Instr} {s t : State}

/-- The condition on the phases reads the controller and the registers alone. -/
theorem PhaseInv.congr (h : PhaseInv i s) (hp : t.phase = s.phase) (hl : t.lvl = s.lvl) (hu : t.upc = s.upc)
    (hr : ∀ r, t.rd i.lane r = s.rd i.lane r) : PhaseInv i t := by
  cases hq : s.phase <;> have hq' := hp.trans hq
  case idle =>
    obtain ⟨l, u⟩ := (phaseInv_idle hq).1 h
    exact (phaseInv_idle hq').2 ⟨hl ▸ l, hu ▸ u⟩
  case exec =>
    obtain ⟨f, m, l, u⟩ := (phaseInv_exec hq).1 h
    exact (phaseInv_exec hq').2 ⟨f, by rwa [hr], hl ▸ l, hu ▸ u⟩
  case desc =>
    obtain ⟨g, u, k, l⟩ := (phaseInv_desc hq).1 h
    exact (phaseInv_desc hq').2 ⟨g.of_modulus (hr _), hu ▸ u, by rwa [hr, hr, hl], by rwa [hr, hl]⟩
  case base =>
    obtain ⟨g, u, l⟩ := (phaseInv_base hq).1 h
    exact (phaseInv_base hq').2 ⟨g.of_modulus (hr _), hu ▸ u, by rwa [hr, hl]⟩
  case asc =>
    obtain ⟨g, p, l, ab, c, d⟩ := (phaseInv_asc hq).1 h
    exact (phaseInv_asc hq').2 ⟨g.of_modulus (hr _), hl ▸ p, by rwa [hr, hl], by rwa [PairReduced, hr, hr, hr],
      by rwa [hr, hr, hu], by rwa [hr, hr, hu]⟩
  case fin =>
    obtain ⟨g, l, u, ab⟩ := (phaseInv_fin hq).1 h
    exact (phaseInv_fin hq').2 ⟨g.of_modulus (hr _), hl ▸ l, hu ▸ u, by rwa [PairReduced, hr, hr, hr]⟩

/-- The invariant stays where nothing changes but `DONE`, the error record, the flags, `CTRL` and the host, and the
bookkeeping holds. -/
theorem inv_of_same_block (h : Inv s) (hL : t.L = s.L) (hf : t.f = s.f) (hb : t.b = s.b) (hp : t.phase = s.phase)
    (hl : t.lvl = s.lvl) (hu : t.upc = s.upc) (hc : t.cmd = s.cmd) (hs : StatusInv t) : Inv t := by
  obtain ⟨i, hi⟩ := h.cmd_legal
  exact inv_of_parts (capacity_congr hL hb h.capacity) hs (i := i) (by rwa [Latched, hc])
    ((phaseInv_of_inv h hi).congr hp hl hu (State.rd_congr hf hb i.lane))

theorem inv_of_sameCore (h : Inv s) (hc : SameCore t s) (hs : StatusInv t) : Inv t :=
  inv_of_same_block h hc.L hc.f hc.b hc.phase hc.lvl hc.upc hc.cmd hs

/-- The bookkeeping reads `DONE`, the error record and `GT`, `EQ` alone. -/
theorem StatusInv.congr (h : StatusInv s) (hd : t.busy = true → t.done = false) (he : t.err = s.err)
    (hc : t.errcode = s.errcode) (hg : t.gt = s.gt) (hq : t.eq = s.eq) : StatusInv t :=
  ⟨hd, by rw [he, hc]; exact h.no_code, by rw [he, hc]; exact h.code, by rw [hg, hq]; exact h.flags⟩

/-- An error entry records one of the three codes (rules R240, R242). -/
theorem StatusInv.raise (h : StatusInv s) (e : BusError) : StatusInv (raise e s) := by
  obtain ⟨-, hr⟩ | ⟨-, hr⟩ := raise_cases e s
  · rwa [hr]
  · rw [hr]
    exact ⟨h.busy_not_done, by simp, fun _ => by cases e <;> simp [BusError.code], h.flags⟩

theorem StatusInv.withDone (h : StatusInv s) : StatusInv { s with done := false } :=
  h.congr (fun _ => rfl) rfl rfl rfl rfl

/-- Acknowledging `DONE` and clearing the error record (rule R229). -/
theorem StatusInv.writeStatus (h : StatusInv s) (v : Word) : StatusInv (writeStatus v s) := by
  have hd : StatusInv (ackDone v s) := by
    unfold ackDone
    split
    · exact h.withDone
    · exact h
  unfold Machine.writeStatus ackErr
  split
  · exact ⟨hd.busy_not_done, fun _ => rfl, by simp, hd.flags⟩
  · exact hd

/-- A completing micro-step is the end of the busy time; the order flags it may write are never both 1 (rule R163). -/
theorem StatusInv.completeRoute {ln : Lane} {op : BeOp} {a b m : Nat} {ans : BeAnswer} (h : StatusInv s)
    (hans : backend ln op a b m = some ans) : StatusInv (complete (routeAnswer ln ans s)) := by
  cases ans with
  | value r => exact h.congr (by simp [State.busy]) (by simp) (by simp) (by simp [routeAnswer]) (by simp [routeAnswer])
  | order g e => exact ⟨by simp [State.busy], h.no_code, h.code, (backend_order hans).2⟩
  | parity e => exact h.congr (by simp [State.busy]) rfl rfl rfl rfl

/-- A micro-step of `FIB` keeps the bookkeeping. -/
theorem FibStep.statusInv {ln : Lane} (h : FibStep ln s t) (hp : s.phase ≠ .idle) (hs : StatusInv s) : StatusInv t := by
  have hd : s.done = false := hs.busy_not_done ((s.busy_eq_true_iff).2 hp)
  obtain ⟨hg, hq, -⟩ := h.flags
  cases h with
  | fin => exact hs.congr (by simp [State.busy]) (by simp) (by simp) hg hq
  | _ => exact hs.congr (by simp [hd]) (by simp) (by simp) hg hq

/-! #### The invariant under a command, a bus write and a clock edge -/

theorem inv_refuseCommand (h : Inv s) (e : BusError) : Inv (refuseCommand e s) :=
  inv_of_sameCore h ((sameCore_raise e _).trans ⟨rfl, rfl, rfl, rfl, rfl, rfl, rfl, rfl⟩)
    ((statusInv_of_inv h).withDone.raise e)

theorem inv_raise (h : Inv s) (e : BusError) : Inv (raise e s) :=
  inv_of_sameCore h (sameCore_raise e s) ((statusInv_of_inv h).raise e)

theorem capacity_latchCommand (h : Capacity s) (i : Instr) : Capacity (latchCommand i s) :=
  capacity_congr (s := s) rfl rfl h

/-- An accepted primitive command starts in `EXEC` (rule R221, case 4). -/
theorem inv_accept (h : Inv s) (hf : i.isFib = false) (hm : ¬(i.reducing = true ∧ s.rd i.lane .M = 0)) :
    Inv (moveTo .exec 0 0 (latchCommand i s)) :=
  inv_of_parts (capacity_moveTo (capacity_latchCommand h.capacity i) ..)
    ((statusInv_of_inv h).congr (fun _ => rfl) rfl rfl rfl rfl) (decode_encode i)
    ((phaseInv_exec rfl).2 ⟨hf, fun hr h0 => hm ⟨hr, h0⟩, rfl, rfl⟩)

/-- An accepted `FIB` starts in `DESC` with a copy of its index (rule R186). -/
theorem inv_acceptFib (h : Inv s) (hf : i.isFib = true) (hm : ¬(i.reducing = true ∧ s.rd i.lane .M = 0)) :
    Inv (moveTo .desc 0 0 ((latchCommand i s).wr i.lane .K (s.rd i.lane .N))) := by
  have hN : s.rd i.lane .N < 2 ^ (latchCommand i s).XW i.lane := rd_lt h.capacity i.lane .N
  have hphase : DescInv i (moveTo .desc 0 0 ((latchCommand i s).wr i.lane .K (s.rd i.lane .N))) := by
    refine ⟨⟨hf, ?_⟩, rfl, ?_, Nat.zero_le _⟩
    · simpa [State.rd_wr_other_reg] using fun h0 => hm ⟨reducing_of_isFib hf, h0⟩
    · simp [State.rd_wr_fits hN, State.rd_wr_other_reg]
  exact inv_of_parts (capacity_moveTo (capacity_wr (capacity_latchCommand h.capacity i) ..) ..)
    ((statusInv_of_inv h).congr (by simp) (by simp) (by simp) (by simp) (by simp)) (i := i)
    (by simp [Latched, decode_encode]) ((phaseInv_desc rfl).2 hphase)

/-- A completed command leaves the controller at rest, which it already was in `EXEC`. -/
theorem phaseInv_complete (h : ExecInv i s) (hl : t.lvl = s.lvl) (hu : t.upc = s.upc) : PhaseInv i (complete t) :=
  (phaseInv_idle rfl).2 ⟨hl.trans h.lvl, hu.trans h.upc⟩

theorem capacity_routeAnswer (h : Capacity s) (ln : Lane) (ans : BeAnswer) : Capacity (routeAnswer ln ans s) := by
  cases ans with
  | value r => exact capacity_wr h ln .R r
  | order g e => exact capacity_congr (s := s) rfl rfl h
  | parity e => exact capacity_congr (s := s) rfl rfl h

/-- Whatever a command does next keeps the invariant: from `IDLE` any command, in flight the latched one. -/
theorem ExecStep.inv (h : ExecStep i s t) (hs : Inv s) (hi : s.phase ≠ .idle → Latched s i) : Inv t := by
  have hst := statusInv_of_inv hs
  have hlatched (hp : s.phase ≠ .idle) : Latched t i := by
    obtain ⟨-, -, hcmd⟩ := h.record hp
    rw [Latched, hcmd]
    exact hi hp
  cases h with
  | refuse => exact inv_refuseCommand hs _
  | accept _ hf hm => exact inv_accept hs hf hm
  | acceptFib _ hf hm => exact inv_acceptFib hs hf hm
  | nop hp =>
    have hne : s.phase ≠ .idle := by simp [hp]
    have hx := (phaseInv_exec hp).1 (phaseInv_of_inv hs (hi hne))
    exact inv_of_parts (capacity_complete hs.capacity) (hst.congr (by simp [State.busy]) rfl rfl rfl rfl) (hlatched hne)
      (phaseInv_complete hx rfl rfl)
  | primitive op ans hp _ _ hans =>
    have hne : s.phase ≠ .idle := by simp [hp]
    have hx := (phaseInv_exec hp).1 (phaseInv_of_inv hs (hi hne))
    exact inv_of_parts (capacity_complete (capacity_routeAnswer hs.capacity ..)) (hst.completeRoute hans) (hlatched hne)
      (phaseInv_complete hx (by simp) (by simp))
  | fib _ hne _ hstep =>
    exact inv_of_parts (hstep.capacity hs.capacity) (hstep.statusInv hne hst) (hlatched hne)
      (hstep.phaseInv hs.capacity (phaseInv_of_inv hs (hi hne)))

/-- An operand write while idle (rule R228): the controller's condition in `IDLE` reads no register. -/
theorem inv_wr_idle (h : Inv s) (hp : s.phase = .idle) (ln : Lane) (r : Reg) (v : Nat) : Inv (s.wr ln r v) := by
  obtain ⟨i, hi⟩ := h.cmd_legal
  obtain ⟨hl, hu⟩ := (phaseInv_idle hp).1 (phaseInv_of_inv h hi)
  exact inv_of_parts (capacity_wr h.capacity ..)
    ((statusInv_of_inv h).congr (by simp [State.busy, hp]) (by simp) (by simp) (by simp) (by simp)) (i := i)
    (by simpa [Latched] using hi) ((phaseInv_idle (by simpa using hp)).2 ⟨by simpa using hl, by simpa using hu⟩)

theorem inv_writeOperand (h : Inv s) (ln : Lane) (r : Reg) (k : Nat) (v : Word) : Inv (writeOperand ln r k v s) := by
  unfold writeOperand
  split
  · exact inv_raise h _
  · rename_i hb
    exact inv_wr_idle h ((s.busy_eq_false_iff).1 (by simpa using hb)) ..

theorem inv_issueCommand {w : Word} (h : Inv s) (ht : issueCommand w s = .next t) : Inv t := by
  obtain ⟨-, e⟩ | ⟨-, -, e⟩ | ⟨hb, i, -, e⟩ := issueCommand_cases w s <;> rw [e] at ht
  · cases ht
    exact inv_raise h _
  · cases ht
    exact inv_refuseCommand h _
  · exact (exec_eq_next ht).inv h (fun hp => absurd ((s.busy_eq_false_iff).1 hb) hp)

/-- A bus write keeps the invariant, busy or idle (rules R226 to R230). -/
theorem inv_busWrite {a : Addr} {v : Word} (h : Inv s) (ht : busWrite a v s = .next t) : Inv t := by
  unfold busWrite at ht
  obtain ⟨-, e⟩ | ⟨-, u, e, hu⟩ := writeTarget_cases (targetOf s.L a) v s <;> rw [e] at ht
  · exact inv_issueCommand h ht
  · cases ht
    obtain rfl | ⟨-, rfl⟩ | ⟨-, rfl⟩ | ⟨ln, r, k, -, -, rfl⟩ := hu
    · exact h
    · exact inv_of_same_block h rfl rfl rfl rfl rfl rfl rfl
        ((statusInv_of_inv h).congr h.busy_not_done rfl rfl rfl rfl)
    · exact inv_of_sameCore h (sameCore_writeStatus v s) ((statusInv_of_inv h).writeStatus v)
    · exact inv_writeOperand h ln r k v

theorem inv_busEdge {p : Pins} (h : Inv s) (ht : busEdge p s = .next t) : Inv t := by
  unfold busEdge at ht
  split at ht
  · exact inv_busWrite h ht
  · cases ht
    exact h

/-- The core's micro-step is an action of the latched command (rules R27, R224). -/
theorem inv_microStep (h : Inv s) (ht : microStep s = .next t) : Inv t := by
  unfold microStep at ht
  split at ht
  · split at ht
    · rename_i i hi
      exact (exec_eq_next ht).inv h (fun _ => hi)
    · cases ht
  · cases ht
    exact h

/-- The host's own data are no part of the invariant. -/
theorem inv_withHost (h : Inv s) (ps : List HostAccess) (ts : List Turn) (rs : List ReadRecord) :
    Inv { s with program := ps, schedule := ts, reads := rs } :=
  inv_of_same_block h rfl rfl rfl rfl rfl rfl rfl ((statusInv_of_inv h).congr h.busy_not_done rfl rfl rfl rfl)

/-- The invariant holds after reset (rules R35, R270): `CMD` holds the word of `NOP` and the core is idle. -/
theorem inv_resetWith {L : Nat} (h1 : 1 ≤ L) (h256 : L ≤ 256) : Inv (State.resetWith L) := by
  have hc : Capacity (State.resetWith L) := ⟨h1, h256, fun r => by simp [State.resetWith]⟩
  exact inv_of_parts hc ⟨fun _ => rfl, fun _ => rfl, by simp [State.resetWith], by simp [State.resetWith]⟩
    (show decode 0 = .ok .nop from rfl) ((phaseInv_idle rfl).2 ⟨rfl, rfl⟩)

theorem inv_resetBlock (h : Inv s) : Inv (resetBlock s) :=
  inv_withHost (inv_resetWith h.capacity.one_le h.capacity.le_256) ..

/-- A clock edge keeps the invariant: reset, or the access and after it the micro-step (rules R224, R270). -/
theorem inv_clockEdge {p : Pins} {tick : Bool} (h : Inv s) (ht : clockEdge p tick s = .next t) : Inv t := by
  obtain ⟨-, e⟩ | ⟨-, -, e⟩ | ⟨-, -, -, e⟩ := clockEdge_cases p tick s <;> rw [e] at ht
  · cases ht
    exact inv_resetBlock h
  · exact inv_busEdge h ht
  · obtain ⟨u, hu, hm⟩ := andThen_eq_next ht
    exact inv_microStep (inv_busEdge h hu) hm

theorem inv_hostAfter (h : Inv s) (n : Turn) : Inv (hostAfter n s) :=
  inv_of_sameCore h (sameCore_hostAfter n s)
    ((statusInv_of_inv h).congr (by simpa [State.busy] using h.busy_not_done) (by simp) (by simp) (by simp) (by simp))

theorem inv_nextTurn (h : Inv s) : Inv (nextTurn s).2 := by
  unfold nextTurn
  split
  · exact inv_withHost h ..
  · exact h

end

/-- Settles O53: the open parameter is in range (rule R5), and so is any other `L` named. -/
theorem invariantHoldsAfterReset : Obligations.InvariantHoldsAfterReset :=
  ⟨inv_resetWith (Nat.le_add_left 1 _) Config.limbsLessOne.isLt, fun _ => inv_resetWith⟩

/-- Settles O54: taking the turn, the host's side and the clock edge each keep the invariant. -/
theorem everyStepKeepsTheInvariant : Obligations.EveryStepKeepsTheInvariant :=
  fun _ _ hs ht => inv_clockEdge (inv_hostAfter (inv_nextTurn hs) _) ht

/-! #### What shows through (rules R23, R74) -/

/-- The answer of a primitive command's unit, taken to its place in two states that look the same, leaves them so. -/
theorem sameVisible_completeRoute {ln : Lane} {s t : State} (h : SameVisible ln s t) (ans : BeAnswer) :
    SameVisible ln (complete (routeAnswer ln ans s)) (complete (routeAnswer ln ans t)) := by
  obtain ⟨hL, -, hgt, heq, hev, hr⟩ := h
  cases ans with
  | value v =>
    refine ⟨by simpa using hL, rfl, by simpa [routeAnswer] using hgt, by simpa [routeAnswer] using heq,
      by simpa [routeAnswer] using hev, fun r hv => ?_⟩
    have hw : s.XW ln = t.XW ln := by simp [State.XW, hL]
    by_cases e : r = .R
    · simp only [e, complete_rd, routeAnswer, State.rd_wr_same, hw]
    · simp only [complete_rd, routeAnswer, State.rd_wr_other_reg _ _ _ e, hr r hv]
  | order g e => exact ⟨hL, rfl, rfl, rfl, hev, hr⟩
  | parity e => exact ⟨hL, rfl, hgt, heq, rfl, hr⟩

/-- Settles O59: the micro-step presents `X`, `Y` and `M` of the lane to a unit without state, and both states get one
answer. -/
theorem hiddenStateNeverShows : Obligations.HiddenStateNeverShows := by
  intro i s₁ s₂ t₁ hf hp hv h
  obtain ⟨hL, hphase, hflags⟩ := id hv
  obtain ⟨-, -, -, hr⟩ := id hflags
  have hp₂ : s₂.phase = .exec := hphase ▸ hp
  obtain ⟨rfl, e⟩ | ⟨-, -, op, -, -, e⟩ | ⟨hfib, -⟩ := exec_forms i
  · obtain ⟨-, rfl⟩ := execNop_eq_next (by simp [hp]) (e s₁ ▸ h)
    exact ⟨complete s₂, by rw [e, execNop, hp₂], hL, rfl, hflags⟩
  · obtain ⟨hi, -⟩ | ⟨-, ans, hans, rfl⟩ := primitiveCommand_eq_next (e s₁ ▸ h)
    · simp [hp] at hi
    · rw [hr .X rfl, hr .Y rfl, hr .M rfl] at hans
      exact ⟨_, by simp only [e, primitiveCommand, hp₂, execMicroStep, hans], sameVisible_completeRoute hv ans⟩
  · simp [hf] at hfib

/-! #### Cycles without an access, and what the bus reads -/

/-- A cycle without an access or a reset is the micro-step, if the turn lets it take effect (rule R224). -/
theorem runTurn_quiet {n : Turn} (s : State) (hr : n.rst = false) (hh : n.host = false) :
    runTurn n s = if n.tick then microStep s else .next s := by
  have hpins : turnPins n s = quietPins false := by simp [turnPins, presented, hh, hr]
  have hhost : hostAfter n s = s := by simp [hostAfter, presented, hh]
  have hedge : busEdge (quietPins false) s = .next s := rfl
  rw [runTurn, hpins, hhost, clockEdge, hedge, if_neg (by simp [quietPins])]
  cases n.tick <;> cases hb : s.busy <;> simp [microStep, hb]

/-- Settles O6: a quiet cycle is the micro-step, which reads the command from `CMD` (rule R27). -/
theorem stepRunsTheLatchedCommand : Obligations.StepRunsTheLatchedCommand := by
  intro s i ts hp hs hi
  have hb : State.busy { s with schedule := ts } = true := (State.busy_eq_true_iff _).2 hp
  have hn : nextTurn s = ({ rst := false, host := false, tick := true }, { s with schedule := ts }) := by simp [nextTurn, hs]
  rw [step, hn, runTurn_quiet _ rfl rfl]
  simp [microStep, hb, hi]

theorem statusWord_bit_done (s : State) : (statusWord s).getLsbD 1 = s.done := by
  simp only [statusWord, BitVec.getLsbD_append]
  simp

theorem statusWord_bit_err (s : State) : (statusWord s).getLsbD 2 = s.err := by
  simp only [statusWord, BitVec.getLsbD_append]
  simp

theorem ctrlWord_bit_ieDone (s : State) : (ctrlWord s).getLsbD 0 = s.ieDone := by
  simp only [ctrlWord, BitVec.getLsbD_append]
  simp

theorem ctrlWord_bit_ieErr (s : State) : (ctrlWord s).getLsbD 1 = s.ieErr := by
  simp only [ctrlWord, BitVec.getLsbD_append]
  simp

theorem busRead_ctrl (s : State) : busRead s 0x001 = ctrlWord s := rfl
theorem busRead_status (s : State) : busRead s 0x002 = statusWord s := rfl

/-- Settles O46: bits 1 and 2 of `STATUS` are `DONE` and `ERR`, bits 0 and 1 of `CTRL` their enables. -/
theorem irqIsTheMaskedStatus : Obligations.IrqIsTheMaskedStatus := fun s => by
  rw [busRead_status, busRead_ctrl, statusWord_bit_done, statusWord_bit_err, ctrlWord_bit_ieDone, ctrlWord_bit_ieErr,
    State.irq]

/-! #### Reading a whole lane-B register (rules R22, R101) -/

/-- The limbs of a value above limb 0 are the limbs of its upper part. -/
theorem limb_succ (v i : Nat) : limb v (i + 1) = limb (v / 2 ^ 64) i := by
  rw [limb, limb, Nat.div_div_eq_div_mul, ← pow_add, Nat.mul_succ, Nat.add_comm]

/-- The first `n` limbs of a value, weighted, are the value modulo `2^(64·n)`. -/
theorem valueOfLimbs_limbs (n v : Nat) : valueOfLimbs ((List.range n).map (limb v)) = v % 2 ^ (64 * n) := by
  induction n generalizing v with
  | zero => simp [valueOfLimbs, Nat.mod_one]
  | succ n ih =>
    have htail : (List.range n).map (limb v ∘ Nat.succ) = (List.range n).map (limb (v / 2 ^ 64)) :=
      List.map_congr_left fun i _ => limb_succ v i
    have hhead : (limb v 0).toNat = v % 2 ^ 64 := by simp [limb]
    rw [List.range_succ_eq_map, List.map_cons, List.map_map, htail, valueOfLimbs, ih, hhead, Nat.mul_succ, Nat.add_comm,
      pow_add, Nat.mul_comm (2 ^ (64 * n)), Nat.mod_mul, Nat.add_comm]

/-- The two tables of rule R61 agree: a host-visible register stands at its place. -/
theorem regOfIndex_of_indexOfReg {r : Reg} {k : Nat} (h : indexOfReg r = some k) : regOfIndex k = some r ∧ k < 5 := by
  cases r <;> cases h <;> decide

/-- A limb address of lane B reads that limb (rule R225). -/
theorem busRead_limb {s : State} {r : Reg} {k i : Nat} (hc : Capacity s) (hk : indexOfReg r = some k) (hi : i < s.L) :
    busRead s (BitVec.ofNat 12 (256 * (k + 1) + i)) = limb (s.rd .b r) i := by
  obtain ⟨hr, h5⟩ := regOfIndex_of_indexOfReg hk
  have h256 : i < 256 := hi.trans_le hc.le_256
  have ha : (BitVec.ofNat 12 (256 * (k + 1) + i)).toNat = 256 * (k + 1) + i := Nat.mod_eq_of_lt (by omega)
  rw [busRead, targetOf_laneB hi h256 ha hr, readTarget]

/-- Settles O48: the accesses are one read a limb, and the words read are the limbs of a value that fits in `L` of them. -/
theorem rdbReadsEveryLimb : Obligations.RdbReadsEveryLimb := by
  intro s r k hc hk
  have haccess : readLimb r = fun i => [.read (BitVec.ofNat 12 (256 * (k + 1) + i))] := by
    funext i
    simp [readLimb, addrOf, hk, accessAt]
  refine ⟨by rw [HostLine.expand, haccess, List.map_eq_flatMap], ?_⟩
  rw [List.map_congr_left (g := limb (s.rd .b r)) fun i hi => busRead_limb hc hk (List.mem_range.1 hi), valueOfLimbs_limbs]
  exact Nat.mod_eq_of_lt (hc.fits r)

end Sys2Proof.Proofs.StateFamily

/-! ### Proofs: the memory family -/

namespace Sys2Proof.Proofs.Memory

open Sys2Proof.Machine Sys2Proof.Safety Sys2Proof.Proofs.Scope Sys2Proof.Proofs.StateFamily

/-! #### When `R` is written (rules R69, R192, R223) -/

/-- A working register, one without an address (rule R26). -/
def Working (r : Reg) : Prop := indexOfReg r = none

/-- Before `FIN` a micro-step of `FIB` writes working registers alone. -/
theorem FibStep.frame_working {ln : Lane} {s t : State} (h : FibStep ln s t) (hp : s.phase ≠ .fin) :
    Frame ln Working s t := by
  have h0 : Frame ln Working s s := .refl ln Working s
  cases h with
  | halve r => exact (h0.wr (by rfl) r).moveTo ..
  | turn => exact h0.moveTo ..
  | base r => exact ((h0.wr (by rfl) 0).wr (by rfl) r).moveTo ..
  | row m r _ hm =>
    have hdst : Working m.dst := by
      obtain ⟨-, -, e | e | e, -⟩ := microProgram_row hm <;> rw [e] <;> rfl
    exact (h0.wr hdst r).moveTo ..
  | odd l r => exact ((h0.wr (by rfl) _).wr (by rfl) r).moveTo ..
  | even l => exact ((h0.wr (by rfl) _).wr (by rfl) _).moveTo ..
  | fin hq => exact absurd hq hp

/-- Outside the phases that complete, a command writes working registers alone. -/
theorem ExecStep.frame_working {i : Instr} {s t : State} (h : ExecStep i s t) (he : s.phase ≠ .exec)
    (hf : s.phase ≠ .fin) : Frame i.lane Working s t := by
  have h0 : Frame i.lane Working s s := .refl ..
  cases h with
  | refuse => exact h0.refuseCommand _
  | accept => exact (h0.latchCommand i).moveTo ..
  | acceptFib => exact ((h0.latchCommand i).wr (by rfl) _).moveTo ..
  | nop hp => exact absurd hp he
  | primitive _ _ hp => exact absurd hp he
  | fib _ _ _ h => exact FibStep.frame_working h hf

/-- `EXEC` and `FIN` are the phases of the completing micro-steps. -/
theorem ExecStep.completes {i : Instr} {s t : State} (h : ExecStep i s t) (hp : s.phase = .exec ∨ s.phase = .fin) :
    t.phase = .idle ∧ t.done = true := by
  cases h with
  | refuse hq => simp [hq] at hp
  | accept hq => simp [hq] at hp
  | acceptFib hq => simp [hq] at hp
  | nop => exact ⟨rfl, rfl⟩
  | primitive => exact ⟨rfl, rfl⟩
  | fib _ _ _ h =>
    cases h with
    | fin => exact ⟨rfl, rfl⟩
    | halve _ hq | turn hq | base _ hq | row _ _ hq | odd _ _ hq | even _ hq => simp [hq] at hp

/-- Settles O58: the other lane is framed by every command, and `R` of its own lane outside `EXEC` and `FIN`, where it
completes. -/
theorem resultIsWrittenOnlyAtCompletion : Obligations.ResultIsWrittenOnlyAtCompletion := by
  intro i s t ln h hR
  have hx := exec_eq_next h
  have hln : ln = i.lane := by
    by_contra hne
    exact hR (hx.frame.regs ln .R (.inl hne))
  have hphase : s.phase = .exec ∨ s.phase = .fin := by
    by_contra hp
    obtain ⟨he, hf⟩ := not_or.1 hp
    exact hR ((ExecStep.frame_working hx he hf).regs ln .R (.inr (by simp [Working, indexOfReg])))
  exact ⟨hln, hphase, ExecStep.completes hx hphase⟩

/-! #### A `FIB` in flight goes on (rules R98, R190) -/

/-- A code that asks for a value gets one where its modulus is not 0 or it does not reduce. -/
theorem backendValue_answers (ln : Lane) {op : BeOp} (a b : Nat) {m : Nat} (hv : op ≠ .iseven ∧ op ≠ .cmp)
    (hm : op.reducing = true → m ≠ 0) : ∃ r, backendValue ln op a b m = some r := by
  obtain ⟨ans, hans⟩ := (backend_eq_some_iff ln op a b m).2 (fun h => hm h.1 h.2)
  cases ans with
  | value r => exact ⟨r, by simp [backendValue, hans]⟩
  | order g e => exact absurd (backend_order hans).1 hv.2
  | parity e => exact absurd (backend_parity hans) hv.1

/-- So does a backend operation of the controller. -/
theorem afterBackendInto_goes_on {ln : Lane} {op : BeOp} (a b : Nat) {dst : Reg} {s : State} (g : State → State)
    (hv : op ≠ .iseven ∧ op ≠ .cmp) (hm : op.reducing = true → s.rd ln .M ≠ 0) :
    ∃ t, afterBackend (backendInto ln op a b dst s) g = .next t := by
  obtain ⟨r, hr⟩ := backendValue_answers ln a b hv hm
  exact ⟨g (s.wr ln dst r), by simp [backendInto, hr, afterBackend]⟩

theorem answers_of_reducing {op : BeOp} : op.reducing = true → op ≠ .iseven ∧ op ≠ .cmp := by cases op <;> decide

theorem fibDesc_goes_on (ln : Lane) (s : State) : ∃ t, fibDesc ln s = .next t := by
  unfold fibDesc
  split
  · exact afterBackendInto_goes_on _ _ _ (by decide) (by simp [BeOp.reducing])
  · exact ⟨_, rfl⟩

theorem fibBase_goes_on {ln : Lane} {s : State} (hm : s.rd ln .M ≠ 0) : ∃ t, fibBase ln s = .next t :=
  afterBackendInto_goes_on _ _ _ (by decide) (fun _ => by rwa [State.rd_wr_other_reg _ _ _ (by decide)])

theorem fibAsc_goes_on {ln : Lane} {s : State} (hm : s.rd ln .M ≠ 0) (hl : 1 ≤ s.lvl) : ∃ t, fibAsc ln s = .next t := by
  unfold fibAsc
  split
  · rename_i m hrow
    exact afterBackendInto_goes_on _ _ _ (answers_of_reducing (microProgram_row hrow).1) (fun _ => hm)
  · unfold fibSelect
    rw [if_neg (by omega)]
    split
    · exact afterBackendInto_goes_on _ _ _ (by decide) (fun _ => by rwa [State.rd_wr_other_reg _ _ _ (by decide)])
    · exact ⟨_, rfl⟩

/-- The micro-step of a busy core is an action of the latched command (rules R27, R224). -/
theorem microStep_latched {i : Instr} {s : State} (hp : s.phase ≠ .idle) (hi : decode s.cmd = .ok i) :
    microStep s = exec i s := by
  simp [microStep, (s.busy_eq_true_iff).2 hp, hi]

/-- A `FIB` is in flight: command `i`, latched and a `FIB`, is at work under the condition on its phases (rule R36). -/
structure FibInFlight (i : Instr) (s : State) : Prop where
  capacity : Capacity s
  isFib : i.isFib = true
  latched : Latched s i
  phase : PhaseInv i s
  busy : s.phase ≠ .idle

section
variable {i : Instr} {s t : State}

theorem FibInFlight.not_exec (h : FibInFlight i s) : s.phase ≠ .exec := by
  intro hp
  have := ((phaseInv_exec hp).1 h.phase).primitive
  simp [h.isFib] at this

theorem FibInFlight.modulus (h : FibInFlight i s) : s.rd i.lane .M ≠ 0 := (h.phase.fibGuard h.busy h.not_exec).modulus

/-- What a `FIB` in flight needs is in the block alone, the record of errors, `DONE`, `CTRL` and the host apart. -/
theorem FibInFlight.congr (h : FibInFlight i s) (hL : t.L = s.L) (hf : t.f = s.f) (hb : t.b = s.b)
    (hp : t.phase = s.phase) (hl : t.lvl = s.lvl) (hu : t.upc = s.upc) (hc : t.cmd = s.cmd) : FibInFlight i t :=
  ⟨capacity_congr hL hb h.capacity, h.isFib, by rw [Latched, hc]; exact h.latched,
    h.phase.congr hp hl hu (State.rd_congr hf hb i.lane), hp ▸ h.busy⟩

/-- The micro-step of a `FIB` in flight has an outcome, and it is one of the doubler's. -/
theorem FibInFlight.microStep (h : FibInFlight i s) : ∃ t, microStep s = .next t ∧ FibStep i.lane s t := by
  obtain ⟨t, ht⟩ : ∃ t, fibCommand i i.lane s = .next t := by
    unfold fibCommand
    cases hp : s.phase
    case idle => exact absurd hp h.busy
    case exec => exact absurd hp h.not_exec
    case desc => exact fibDesc_goes_on i.lane s
    case base => exact fibBase_goes_on h.modulus
    case asc => exact fibAsc_goes_on h.modulus ((phaseInv_asc hp).1 h.phase).pos
    case fin => exact ⟨_, rfl⟩
  have hexec : exec i s = fibCommand i i.lane s := by
    obtain ⟨rfl, -⟩ | ⟨hf, -⟩ | ⟨-, -, e⟩ := exec_forms i
    · exact absurd h.isFib (by decide)
    · simp [h.isFib] at hf
    · exact e s
  exact ⟨t, by rw [microStep_latched h.busy h.latched, hexec, ht], fibCommand_eq_next h.busy ht⟩

/-! #### Each micro-step leaves one less (rule R193) -/

theorem stepsLeft_congr {ln : Lane} (hN : t.rd ln .N = s.rd ln .N) (hp : t.phase = s.phase) (hl : t.lvl = s.lvl)
    (hu : t.upc = s.upc) : stepsLeft ln t = stepsLeft ln s := by
  simp only [stepsLeft, hN, hp, hl, hu]

/-- At the start of a level, or in `FIN` where none is left, seven micro-steps a level and `FIN` are to come. -/
theorem stepsLeft_phaseAt (ln : Lane) (l : Nat) (u : State) : stepsLeft ln (moveTo (phaseAt l) l 0 u) = 7 * l + 1 := by
  by_cases h : l = 0 <;> simp [stepsLeft, phaseAt, h]

/-- A level count up to the length of an index loses no bit in `LVL` (rule R5). -/
theorem mod_lvlW_of_le_bitlen {ln : Lane} {l : Nat} (hc : Capacity s) (h : l ≤ bitlen (s.rd ln .N)) :
    l % 2 ^ Config.lvlW s.L = l :=
  Nat.mod_eq_of_lt (State.lt_lvlW (h.trans ((bitlen_le_iff _ _).2 (rd_lt hc ln .N))))

/-- Micro-step 6 goes down by one level. -/
theorem AscInv.previous_lvl (h : AscInv i s) (hc : Capacity s) : (s.lvl - 1) % 2 ^ Config.lvlW s.L = s.lvl - 1 :=
  mod_lvlW_of_le_bitlen hc ((Nat.sub_le _ 1).trans h.lvl)

/-- `ASC` before micro-step 6: the seven micro-steps of a level are counted down (rule R190). -/
theorem AscInv.stepsLeft_select (h : AscInv i s) (hp : s.phase = .asc) (hu : s.upc = 6) :
    stepsLeft i.lane s = 7 * (s.lvl - 1) + 2 := by
  have := h.pos
  simp only [stepsLeft, hp, hu]
  omega

/-- A micro-step of a `FIB` in flight is one of those it still needed. -/
theorem FibStep.stepsLeft (h : FibStep i.lane s t) (hf : FibInFlight i s) :
    stepsLeft i.lane s = stepsLeft i.lane t + 1 := by
  have hphase := hf.phase
  cases h with
  | halve r hp hk =>
    have hd := (phaseInv_desc hp).1 hphase
    have hlt : s.lvl < bitlen (s.rd i.lane .N) :=
      not_le.1 (mt (div_two_pow_eq_zero_iff (s.rd i.lane .N) s.lvl).2 (hd.index ▸ hk))
    rw [mod_lvlW_of_le_bitlen hf.capacity hlt]
    simp only [Safety.stepsLeft, hp, moveTo_phase, moveTo_lvl, moveTo_rd,
      State.rd_wr_other_reg _ _ _ (show Reg.N ≠ .K by decide)]
    omega
  | turn hp hk =>
    have hd := (phaseInv_desc hp).1 hphase
    have hl : s.lvl = bitlen (s.rd i.lane .N) := le_antisymm hd.lvl ((div_two_pow_eq_zero_iff _ _).1 (hd.index ▸ hk))
    simp [Safety.stepsLeft, hp, hl]
  | base r hp =>
    rw [stepsLeft_phaseAt]
    simp [Safety.stepsLeft, hp]
  | row m r hp hm =>
    obtain ⟨-, hu, -⟩ := microProgram_row hm
    have hu' : (s.upc + 1).val = s.upc.val + 1 := Fin.val_add_one_of_lt (Fin.lt_def.2 hu)
    have hpos := ((phaseInv_asc hp).1 hphase).pos
    simp only [Safety.stepsLeft, hp, moveTo_phase, moveTo_lvl, moveTo_upc, hu']
    omega
  | odd l r hp hu _ hl =>
    have ha := (phaseInv_asc hp).1 hphase
    rw [stepsLeft_phaseAt, hl, AscInv.previous_lvl ha hf.capacity, AscInv.stepsLeft_select ha hp hu]
  | even l hp hu _ hl =>
    have ha := (phaseInv_asc hp).1 hphase
    rw [stepsLeft_phaseAt, hl, AscInv.previous_lvl ha hf.capacity, AscInv.stepsLeft_select ha hp hu]
  | fin hp => simp [Safety.stepsLeft, hp]

/-- Where more than one micro-step is left, the next one keeps the `FIB` in flight and `R` as it is. -/
theorem FibInFlight.keeps (h : FibInFlight i s) (hstep : FibStep i.lane s t) (hl : 1 < stepsLeft i.lane s) :
    FibInFlight i t ∧ t.schedule = s.schedule ∧ t.rd i.lane .R = s.rd i.lane .R := by
  have hfin : s.phase ≠ .fin := fun hp => by simp [stepsLeft, hp] at hl
  have hframe := FibStep.frame_working hstep hfin
  have hbusy : t.phase ≠ .idle := fun hp => by
    have := FibStep.stepsLeft hstep h
    simp only [stepsLeft, hp] at this hl
    omega
  have hcmd : t.cmd = s.cmd := (ExecStep.record (.fib t h.busy h.isFib hstep) h.busy).2.2
  exact ⟨⟨hstep.capacity h.capacity, h.isFib, by rw [Latched, hcmd]; exact h.latched,
    hstep.phaseInv h.capacity h.phase, hbusy⟩, hframe.schedule, hframe.regs _ .R (.inr (by simp [Working, indexOfReg]))⟩

/-! #### A run of a `FIB` in flight (rules R69, R222) -/

/-- A cycle without a reset that does not end the `FIB`: whatever the host does, it stays in flight with the same `R`, and a
micro-step that takes effect is one less to do. -/
theorem FibInFlight.step {n : Turn} {ts : List Turn} (h : FibInFlight i s) (hs : s.schedule = n :: ts)
    (hr : n.rst = false) (hl : n.tick.toNat < stepsLeft i.lane s) :
    ∃ t, step s = .next t ∧ FibInFlight i t ∧ t.schedule = ts ∧ t.rd i.lane .R = s.rd i.lane .R ∧
      stepsLeft i.lane s = stepsLeft i.lane t + n.tick.toNat := by
  have hn : nextTurn s = (n, { s with schedule := ts }) := by simp [nextTurn, hs]
  obtain ⟨u, hu, hrun⟩ := runTurn_busy (t := n) (s := { s with schedule := ts }) ((State.busy_eq_true_iff _).2 h.busy) hr
  have hfu : FibInFlight i u := h.congr hu.L hu.f hu.b hu.phase hu.lvl hu.upc hu.cmd
  have hlu : stepsLeft i.lane u = stepsLeft i.lane s := stepsLeft_congr (hu.rd _ _) hu.phase hu.lvl hu.upc
  rw [Machine.step, hn, hrun]
  cases ht : n.tick with
  | false => exact ⟨u, rfl, hfu, hu.sched, hu.rd _ _, hlu.symm⟩
  | true =>
    obtain ⟨t, hm, hstep⟩ := hfu.microStep
    obtain ⟨hft, hsched, hR⟩ := hfu.keeps hstep (by simpa [hlu, ht] using hl)
    exact ⟨t, hm, hft, hsched.trans hu.sched, hR.trans (hu.rd _ _), hlu ▸ FibStep.stepsLeft hstep hfu⟩

/-- Over a schedule without a reset and with fewer micro-steps than are left the `FIB` stays in flight. -/
theorem FibInFlight.run {ts rest : List Turn} (h : FibInFlight i s) (hs : s.schedule = ts ++ rest) (hr : NoReset ts)
    (hl : ticks ts < stepsLeft i.lane s) :
    ∃ t, core.run ts.length s = .next t ∧ FibInFlight i t ∧ t.rd i.lane .R = s.rd i.lane .R := by
  induction ts generalizing s with
  | nil => exact ⟨s, rfl, h, rfl⟩
  | cons n ts ih =>
    have hticks : ticks (n :: ts) = ticks ts + n.tick.toNat := by
      cases hn : n.tick <;> simp [ticks, hn]
    obtain ⟨hn, hts⟩ := List.forall_mem_cons.1 hr
    obtain ⟨u, hstep, hu, hsched, hR, hleft⟩ := h.step hs hn (by omega)
    obtain ⟨t, hrun, ht, hR'⟩ := ih hu hsched hts (by omega)
    exact ⟨t, by rw [List.length_cons, core_run_succ hstep, hrun], ht, hR'.trans hR⟩

/-- The accept of a `FIB` (rule R186) puts it in flight with a copy of its index. -/
theorem fibInFlight_accept (hc : Capacity s) (hf : i.isFib = true) (hm : s.rd i.lane .M ≠ 0) :
    FibInFlight i (moveTo .desc 0 0 ((latchCommand i s).wr i.lane .K (s.rd i.lane .N))) := by
  have hN : s.rd i.lane .N < 2 ^ (latchCommand i s).XW i.lane := rd_lt hc i.lane .N
  refine ⟨capacity_moveTo (capacity_wr (capacity_latchCommand hc i) ..) .., hf, by simp [Latched, decode_encode],
    (phaseInv_desc rfl).2 ⟨⟨hf, ?_⟩, rfl, ?_, Nat.zero_le _⟩, by simp⟩
  · simpa [State.rd_wr_other_reg] using hm
  · simp [State.rd_wr_fits hN, State.rd_wr_other_reg]

end

theorem fibOf_lane (ln : Lane) : (fibOf ln).lane = ln := by cases ln <;> rfl
theorem fibOf_isFib (ln : Lane) : (fibOf ln).isFib = true := by cases ln <;> rfl

/-- A `FIB` with a modulus that is not 0 is accepted by an idle core (rules R186, R221). -/
theorem exec_fibOf_idle {ln : Lane} {s : State} (hp : s.phase = .idle) (hm : s.rd ln .M ≠ 0) :
    exec (fibOf ln) s = .next (moveTo .desc 0 0 ((latchCommand (fibOf ln) s).wr ln .K (s.rd ln .N))) := by
  rw [exec_idle _ hp, fibOf_lane, if_pos (fibOf_isFib ln)]
  obtain ⟨-, h0, -⟩ | ⟨-, e⟩ := issueChecked_cases (fibOf ln) ln (acceptFib (fibOf ln) ln) s
  · exact absurd h0 hm
  · rw [e, acceptFib_eq]

/-- Settles O33: the accept puts the `FIB` in flight with all its micro-steps to do, and each cycle of the schedule does at
most one of them. -/
theorem fibStaysBusyUntilItsLastMicroStep : Obligations.FibStaysBusyUntilItsLastMicroStep := by
  intro ln s s₁ ts rest hp hm hc hs₁ hr hticks
  rw [exec_fibOf_idle hp hm] at hs₁
  cases hs₁
  have hflight := fibInFlight_accept hc (fibOf_isFib ln) (by rwa [fibOf_lane])
  simp only [fibOf_lane] at hflight
  generalize hu : moveTo .desc 0 0 ((latchCommand (fibOf ln) s).wr ln .K (s.rd ln .N)) = u at hflight ⊢
  have hN : u.rd ln .N = s.rd ln .N := by simp [← hu, State.rd_wr_other_reg]
  have hR : u.rd ln .R = s.rd ln .R := by simp [← hu, State.rd_wr_other_reg]
  have hleft : stepsLeft ln u = 8 * bitlen (s.rd ln .N) + 3 := by
    have hphase : u.phase = .desc ∧ u.lvl = 0 := by simp [← hu]
    simp only [stepsLeft, hphase, hN]
    omega
  have hstart : FibInFlight (fibOf ln) { u with schedule := ts ++ rest } := hflight.congr rfl rfl rfl rfl rfl rfl rfl
  obtain ⟨t, hrun, ht, hRt⟩ := hstart.run rfl hr (by rw [fibOf_lane]; exact hleft ▸ hticks)
  rw [fibOf_lane] at hRt
  exact ⟨t, hrun, (t.busy_eq_true_iff).2 ht.busy, hRt.trans hR⟩

/-! #### The address map backwards (rule R61) -/

/-- The host-visible registers stand in the order of their numbers. -/
theorem indexOfReg_of_regOfIndex {k : Nat} {r : Reg} (h : regOfIndex k = some r) : indexOfReg r = some k := by
  unfold regOfIndex at h
  split at h <;> cases h <;> rfl

/-- The number of words of a lane's registers (rule R5). -/
def limbsOf (L : Nat) : Lane → Nat
  | .f => 1
  | .b => L

theorem XW_eq_limbsOf (s : State) (ln : Lane) : s.XW ln = 64 * limbsOf s.L ln := by cases ln <;> rfl

/-- An address that names a word of a register is that word's address, and the register has the word. -/
theorem addrOf_of_targetOf {L i : Nat} {ln : Lane} {r : Reg} {a : Addr} (h : targetOf L a = .lane ln r i) :
    addrOf ln r i = some a ∧ i < limbsOf L ln := by
  have eq_ofNat {n : Nat} (hn : n = a.toNat) : some (BitVec.ofNat 12 n) = some a := by simp [hn]
  unfold targetOf at h
  split at h
  iterate 4 cases h
  split at h
  · unfold targetF at h
    split at h
    · cases h
    split at h
    · rename_i hr
      cases h
      simp only [addrOf, indexOfReg_of_regOfIndex hr]
      exact ⟨eq_ofNat (by omega), Nat.one_pos⟩
    · cases h
  · unfold targetB at h
    split at h
    · rename_i hr
      split at h
      · rename_i hi
        cases h
        simp only [addrOf, indexOfReg_of_regOfIndex hr]
        exact ⟨eq_ofNat (by omega), hi⟩
      · cases h
    · cases h

/-- Two addresses of one word of a register are one. -/
theorem addr_eq_of_targetOf_lane {L i : Nat} {ln : Lane} {r : Reg} {a a' : Addr} (h : targetOf L a = .lane ln r i)
    (h' : targetOf L a' = .lane ln r i) : a' = a :=
  Option.some.inj ((addrOf_of_targetOf h').1.symm.trans (addrOf_of_targetOf h).1)

/-- `N`, `M`, `X` and `Y`, the registers numbered 0 to 3, are the host's to write (rules R21, R22). -/
theorem regOfIndex_operand : ∀ {k : Nat}, k < 4 → ∃ r, regOfIndex k = some r ∧ r.hostWritable = true
  | 0, _ => ⟨.N, rfl, rfl⟩
  | 1, _ => ⟨.M, rfl, rfl⟩
  | 2, _ => ⟨.X, rfl, rfl⟩
  | 3, _ => ⟨.Y, rfl, rfl⟩

/-- The operand addresses of both lanes name words the host may write. -/
theorem targetOf_operand {L : Nat} {a : Addr}
    (h : (0x010 ≤ a.toNat ∧ a.toNat ≤ 0x013) ∨ (0x100 ≤ a.toNat ∧ a.toNat < 0x500 ∧ a.toNat % 256 < L)) :
    ∃ ln r i, targetOf L a = .lane ln r i ∧ r.hostWritable = true := by
  obtain ⟨h1, h2⟩ | ⟨h1, h2, h3⟩ := h
  · obtain ⟨r, hr, hw⟩ := regOfIndex_operand (k := a.toNat - 16) (by omega)
    exact ⟨.f, r, 0, targetOf_laneF (by omega) (by omega) hr, hw⟩
  · obtain ⟨r, hr, hw⟩ := regOfIndex_operand (k := a.toNat / 256 - 1) (by omega)
    exact ⟨.b, r, _, targetOf_laneB h3 (by omega) (by omega) hr, hw⟩

/-! #### Writes that change nothing (rules R65, R66) -/

/-- A read-only address names `ID` or a word of an `R`. -/
theorem targetOf_readOnly {L : Nat} {a : Addr} (h256 : L ≤ 256) (h : ReadOnlyAddr L a.toNat) :
    targetOf L a = .id ∨ ∃ ln i, targetOf L a = .lane ln .R i := by
  obtain h | h | ⟨h1, h2⟩ := h
  · obtain rfl : a = 0 := BitVec.eq_of_toNat_eq h
    exact .inl rfl
  · exact .inr ⟨.f, 0, targetOf_laneF (j := 4) (by decide) h rfl⟩
  · exact .inr ⟨.b, a.toNat - 0x500, targetOf_laneB (j := 4) (by omega) (by omega) (by omega) rfl⟩

/-- Settles O40: a reserved address names nothing, a read-only one `ID` or a word of an `R`. -/
theorem reservedAndReadOnlyIgnoreWrites : Obligations.ReservedAndReadOnlyIgnoreWrites := by
  intro s a v hc
  refine ⟨fun h => ?_, fun h => ?_⟩
  · have ht := targetOf_reserved h
    exact ⟨by rw [busRead, ht, readTarget], by rw [busWrite, ht, writeTarget]⟩
  · obtain ht | ⟨ln, i, ht⟩ := targetOf_readOnly hc.le_256 h
    · rw [busWrite, ht, writeTarget]
    · simp [busWrite, ht, writeTarget, Reg.hostWritable]

/-! #### An operand write and what reads see of it (rules R67, R228) -/

/-- After one word of a register is replaced the register holds the value with that word replaced. -/
theorem rd_wr_setLimb {s : State} {ln : Lane} {i : Nat} (hc : Capacity s) (r : Reg) (v : Word)
    (hi : i < limbsOf s.L ln) : (s.wr ln r (setLimb (s.rd ln r) i v)).rd ln r = setLimb (s.rd ln r) i v := by
  have hv := rd_lt hc ln r
  apply State.rd_wr_fits
  rw [XW_eq_limbsOf] at hv ⊢
  exact setLimb_lt v hv hi

/-- A register write shows at no target outside the registers. -/
theorem readTarget_wr_of_not_lane (s : State) (ln : Lane) (r : Reg) (v : Nat) {x : Target}
    (hx : ∀ ln' r' i', x ≠ .lane ln' r' i') : readTarget (s.wr ln r v) x = readTarget s x := by
  cases x with
  | id => simp [readTarget, idWord]
  | ctrl => simp [readTarget, ctrlWord]
  | status => simp [readTarget, statusWord, State.busy]
  | cmd => simp [readTarget]
  | lane ln' r' i' => exact absurd rfl (hx ln' r' i')
  | reserved => rfl

/-- Replacing one word of a register shows at no other target. -/
theorem readTarget_wr_setLimb_of_ne {s : State} {ln : Lane} {r : Reg} {i : Nat} (hc : Capacity s) (v : Word)
    (hi : i < limbsOf s.L ln) {x : Target} (hx : x ≠ .lane ln r i) :
    readTarget (s.wr ln r (setLimb (s.rd ln r) i v)) x = readTarget s x := by
  cases x with
  | lane ln' r' i' =>
    by_cases hreg : (ln, r) = (ln', r')
    · obtain ⟨rfl, rfl⟩ := hreg
      have hne : i' ≠ i := fun e => hx (by rw [e])
      rw [readTarget, readTarget, rd_wr_setLimb hc r v hi, limb_setLimb_other _ v hne]
    · rw [readTarget, readTarget, rd_wr_of_ne s _ hreg]
  | id | ctrl | status | cmd | reserved => exact readTarget_wr_of_not_lane s ln r _ (by simp)

/-- Settles O43: the write replaces the one word the address names, and another address names another target. -/
theorem writtenOperandReadsBackAlone : Obligations.WrittenOperandReadsBackAlone := by
  intro s a a' v hp hc ha
  obtain ⟨ln, r, i, ht, hw⟩ := targetOf_operand ha
  have hi := (addrOf_of_targetOf ht).2
  refine ⟨_, busWrite_operand_idle v hp hw ht, capacity_wr hc .., ?_, fun hne => ?_⟩
  · rw [busRead, State.wr_L, ht, readTarget, rd_wr_setLimb hc r v hi, limb_setLimb_same]
  · rw [busRead, busRead, State.wr_L]
    exact readTarget_wr_setLimb_of_ne hc v hi fun ht' => hne (addr_eq_of_targetOf_lane ht ht')

/-! #### Cycles with an access (rules R96, R224, R272) -/

section
variable {n : Turn} {s : State} {ts : List Turn} {rest : List HostAccess} {a : Addr}

/-- A cycle in which the host writes: it goes on to its next access, and the block's clock edge takes the write. -/
theorem runTurn_write {v : Word} (hh : n.host = true) (hp : s.program = .write a v :: rest) :
    runTurn n s = clockEdge (accessPins n.rst (.write a v)) n.tick { s with program := rest } := by
  have hpres : presented n s = some (.write a v) := by simp [presented, hh, hp]
  simp [runTurn, turnPins, hostAfter, hpres, accessEnds, readRecord, accessPins, hp]

/-- A cycle in which the host reads: it records the word, 0 under reset (rule R272), and goes on to its next access. -/
theorem runTurn_read (hh : n.host = true) (hp : s.program = .read a :: rest) :
    runTurn n s = clockEdge (accessPins n.rst (.read a)) n.tick
      { s with program := rest, reads := { addr := a, value := if n.rst then 0 else busRead s a } :: s.reads } := by
  have hpres : presented n s = some (.read a) := by simp [presented, hh, hp]
  cases hr : n.rst <;> simp [runTurn, turnPins, hostAfter, hpres, accessEnds, readRecord, accessPins, busRdata, hp, hr]

/-- A step runs the next turn of the schedule. -/
theorem step_eq_runTurn (hs : s.schedule = n :: ts) : step s = runTurn n { s with schedule := ts } := by
  simp [step, nextTurn, hs]

/-- An idle core, or one whose micro-step does not take effect, sees the access alone at its clock edge. -/
theorem clockEdge_access {x : HostAccess} {tick : Bool} (h : s.phase = .idle ∨ tick = false) :
    clockEdge (accessPins false x) tick s = busEdge (accessPins false x) s := by
  have hr : (accessPins false x).rst = false := by cases x <;> rfl
  obtain ⟨hr', -⟩ | ⟨-, -, e⟩ | ⟨-, ht, hb, -⟩ := clockEdge_cases (accessPins false x) tick s
  · simp [hr] at hr'
  · exact e
  · rw [s.busy_eq_true_iff] at hb
    simp [hb, ht] at h

/-- A read is nothing to the block (rule R64): a busy core takes its micro-step in the same cycle (rule R224). -/
theorem clockEdge_read_busy {i : Instr} (hp : s.phase ≠ .idle) (hi : decode s.cmd = .ok i) :
    clockEdge (accessPins false (.read a)) true s = exec i s := by
  rw [← microStep_latched hp hi]
  simp [clockEdge, accessPins, busEdge, (s.busy_eq_true_iff).2 hp]

/-- A legal word written to `CMD` of an idle core is issued (rules R61, R221). -/
theorem busWrite_cmd_idle {w : Word} {i : Instr} (hp : s.phase = .idle) (hw : decode w = .ok i) :
    busWrite cmdAddr w s = exec i s := by
  have ht : targetOf s.L cmdAddr = .cmd := rfl
  simp [busWrite, ht, writeTarget, issueCommand, (s.busy_eq_false_iff).2 hp, hw]

end

/-- Settles O5: the clock edge takes the write of `CMD`, whose word is issued. -/
theorem stepIssuesTheDecodedCommand : Obligations.StepIssuesTheDecodedCommand := by
  intro s w i tick ts rest hp hs hprog hw
  calc step s = runTurn _ { s with schedule := ts } := step_eq_runTurn hs
    _ = clockEdge (accessPins false (.write cmdAddr w)) tick { s with schedule := ts, program := rest } :=
      runTurn_write rfl hprog
    _ = busWrite cmdAddr w { s with schedule := ts, program := rest } := clockEdge_access (.inl hp)
    _ = exec i { s with schedule := ts, program := rest } := busWrite_cmd_idle hp hw

/-- Settles O9: placing a word makes its write to `CMD` of an idle core the next access. -/
theorem placedWordRunsNext : Obligations.PlacedWordRunsNext := by
  intro s i
  rw [State.withFetchWord, BitVec.ofNat_toNat, BitVec.setWidth_eq]
  exact stepIssuesTheDecodedCommand _ _ i false s.schedule s.program rfl rfl rfl (decode_encode i)

/-- Settles O10: the read leaves the clock edge to the micro-step, where one takes effect, and to reset. -/
theorem stepReadsWithoutEffect : Obligations.StepReadsWithoutEffect := by
  intro s a tick ts rest hprog
  have hstep {n : Turn} (hs : s.schedule = n :: ts) (hh : n.host = true) :=
    (step_eq_runTurn hs).trans (runTurn_read hh hprog)
  refine ⟨fun hs hq => ?_, fun hs hp i hi => ?_, fun hs => ?_⟩
  · exact (hstep hs rfl).trans (clockEdge_access hq)
  · exact (hstep hs rfl).trans (clockEdge_read_busy hp hi)
  · exact ⟨_, hstep hs rfl, rfl, rfl⟩

end Sys2Proof.Proofs.Memory

/-! ### Proofs: the encoding family -/

namespace Sys2Proof.Proofs.Encoding

open Sys2Proof.Machine Sys2Proof.Safety Sys2Proof.Proofs.StateFamily Sys2Proof.Proofs.Memory

/-! #### The fields of a word (rule R90) -/

section
variable (w : Word)

theorem fieldsOf_op_toNat : (fieldsOf w).op.toNat = w.toNat % 16 := by
  simp [fieldsOf, BitVec.extractLsb'_toNat]

theorem fieldsOf_lane_toNat : (fieldsOf w).lane.toNat = w.toNat / 16 % 2 := by
  simp [fieldsOf, BitVec.extractLsb'_toNat, Nat.shiftRight_eq_div_pow]

theorem fieldsOf_rsv_toNat : (fieldsOf w).rsv.toNat = w.toNat / 32 := by
  have hw : w.toNat / 32 < 2 ^ 59 := by have := w.isLt; omega
  simpa [fieldsOf, BitVec.extractLsb'_toNat, Nat.shiftRight_eq_div_pow] using hw

/-- The fields of a word are all its 64 bits. -/
theorem wordOf_fieldsOf : wordOf (fieldsOf w) = w := by
  have h₁ : w.extractLsb' 5 59 ++ w.extractLsb' 4 1 = w.extractLsb' 4 60 :=
    BitVec.extractLsb'_append_extractLsb'_eq_extractLsb' rfl
  have h₂ : w.extractLsb' 4 60 ++ w.extractLsb' 0 4 = w.extractLsb' 0 64 :=
    BitVec.extractLsb'_append_extractLsb'_eq_extractLsb' rfl
  simp only [wordOf, fieldsOf]
  rw [h₁, h₂, BitVec.extractLsb'_eq_self]

theorem fieldsOf_rsvOk_iff : (fieldsOf w).rsvOk = true ↔ w.toNat / 32 = 0 := by
  rw [CmdFields.rsvOk, beq_iff_eq, ← BitVec.toNat_inj, fieldsOf_rsv_toNat]
  rfl

theorem fieldsOf_opOk_iff : (fieldsOf w).opOk = true ↔ w.toNat % 16 < 10 := by
  rw [CmdFields.opOk, fieldsOf_op_toNat, decide_eq_true_iff]

end

theorem laneBit_laneOf (b : BitVec 1) : laneBit (laneOf b) = b := by
  revert b
  decide

/-- In a word below 32 the bit of the selected lane is all that stands above the code. -/
theorem toNat_laneBit_laneOf {w : Word} (h : w.toNat / 32 = 0) :
    (laneBit (laneOf (fieldsOf w).lane)).toNat = w.toNat / 16 := by
  rw [laneBit_laneOf, fieldsOf_lane_toNat]
  omega

/-! #### The code table (rule R91) -/

/-- The code table read from a code and a lane gives a command of that lane. -/
theorem lane_of_instrOf {n : Nat} {ln : Lane} {i : Instr} (h : instrOf n ln = some i) : i.lane = ln := by
  unfold instrOf at h
  split at h <;> cases h <;> rfl

/-- Code 0 has no command of lane B (rule R93). -/
theorem instrOf_zero_b : instrOf 0 .b = none := rfl

/-- Every code below 10 has a command of each lane, but for code 0 of lane B (rule R91). -/
theorem exists_instrOf {n : Nat} {ln : Lane} (hn : n < 10) (h : ¬(n = 0 ∧ ln = .b)) : ∃ i, instrOf n ln = some i := by
  rw [← Option.isSome_iff_exists]
  revert n
  cases ln <;> decide

/-! #### The decoder, test by test (rule R94) -/

section
variable {w : Word} {i : Instr}

theorem decode_reservedBits (h : w.toNat / 32 ≠ 0) : decode w = .error .reservedBits := by
  have hr : ¬(fieldsOf w).rsvOk = true := by rwa [fieldsOf_rsvOk_iff]
  simp [decode, hr]

theorem decode_reservedOp (h : w.toNat / 32 = 0) (hop : 10 ≤ w.toNat % 16) : decode w = .error .reservedOp := by
  have hr := (fieldsOf_rsvOk_iff w).2 h
  have ho : ¬(fieldsOf w).opOk = true := by rw [fieldsOf_opOk_iff]; omega
  simp [decode, hr, ho]

/-- Past the first two tests the code table decides. -/
theorem decode_table (h : w.toNat / 32 = 0) (hop : w.toNat % 16 < 10) :
    decode w = (instrOf (w.toNat % 16) (laneOf (fieldsOf w).lane)).elim (.error .nopWithLane) .ok := by
  have hr := (fieldsOf_rsvOk_iff w).2 h
  have ho := (fieldsOf_opOk_iff w).2 hop
  cases ht : instrOf (w.toNat % 16) (laneOf (fieldsOf w).lane) <;> simp [decode, hr, ho, fieldsOf_op_toNat, ht]

theorem decode_nopWithLane (h : w.toNat / 32 = 0) (hop : w.toNat % 16 = 0) (hl : w.toNat / 16 = 1) :
    decode w = .error .nopWithLane := by
  have hlane : laneOf (fieldsOf w).lane = .b := by
    have hbit := toNat_laneBit_laneOf h
    cases hln : laneOf (fieldsOf w).lane with
    | f =>
      rw [hln, hl] at hbit
      exact absurd hbit (by decide)
    | b => rfl
  rw [decode_table h (by omega), hop, hlane, instrOf_zero_b, Option.elim]

/-- A word that decodes is below 32, and the code table gave its command. -/
theorem instrOf_of_decode (h : decode w = .ok i) :
    w.toNat / 32 = 0 ∧ instrOf (w.toNat % 16) (laneOf (fieldsOf w).lane) = some i := by
  obtain ⟨hlt, hop⟩ := fields_of_decode h
  have h9 := opCode_toNat_le_nine i
  have hr : w.toNat / 32 = 0 := by omega
  rw [decode_table hr (by omega)] at h
  refine ⟨hr, ?_⟩
  cases ht : instrOf (w.toNat % 16) (laneOf (fieldsOf w).lane) with
  | none => rw [ht] at h; cases h
  | some j => rw [ht] at h; cases h; rfl

/-- A word that decodes has the fields of its command, all three of them. -/
theorem fieldsOf_of_decode (h : decode w = .ok i) : fieldsOf w = i.fields := by
  obtain ⟨hr, ht⟩ := instrOf_of_decode h
  have hop : (fieldsOf w).op = i.opCode := BitVec.eq_of_toNat_eq (by rw [fieldsOf_op_toNat, opCode_of_instrOf ht])
  have hlane : (fieldsOf w).lane = laneBit i.lane := by rw [lane_of_instrOf ht, laneBit_laneOf]
  have hrsv : (fieldsOf w).rsv = 0 := BitVec.eq_of_toNat_eq (by rw [fieldsOf_rsv_toNat, hr]; rfl)
  rw [Instr.fields, ← hop, ← hlane, ← hrsv]

/-- A word that decodes is the word of its command, rebuilt from its fields. -/
theorem eq_encode_of_decode (h : decode w = .ok i) : w = encode i := by
  rw [encode, ← fieldsOf_of_decode h, wordOf_fieldsOf]

end

/-- Settles O1: a word is rebuilt from its fields, and a word that decodes has the fields of its command. -/
theorem decodeIsInverseOfEncode : Obligations.DecodeIsInverseOfEncode :=
  fun _ i => ⟨eq_encode_of_decode, fun h => h ▸ decode_encode i⟩

/-! #### The command words (rule R92) -/

/-- The word of a command is its lane above its code (rule R90). -/
theorem encode_toNat (i : Instr) : (encode i).toNat = 16 * (laneBit i.lane).toNat + i.opCode.toNat := by
  cases i <;> rfl

/-- A command of lane B has a code that is not 0 (rule R92). -/
theorem one_le_opCode_of_lane_b {i : Instr} : i.lane = .b → 1 ≤ i.opCode.toNat := by cases i <;> decide

/-- The words of the commands lie in two ranges, one a lane (rule R92). -/
theorem encode_toNat_range (i : Instr) :
    (encode i).toNat ≤ 0x09 ∨ (0x11 ≤ (encode i).toNat ∧ (encode i).toNat ≤ 0x19) := by
  have h9 := opCode_toNat_le_nine i
  rw [encode_toNat]
  cases hl : i.lane with
  | f => exact .inl (by simpa [laneBit] using h9)
  | b =>
    have h1 := one_le_opCode_of_lane_b hl
    have hb : (laneBit .b).toNat = 1 := rfl
    omega

/-- Settles O2: the words are those of the 19 commands, and a word that decodes is the word of its command. -/
theorem legalWordsAreExactlyNineteen : Obligations.LegalWordsAreExactlyNineteen :=
  ⟨decode_encode .nop, decode_encode .mulmodF, decode_encode .addmodF, decode_encode .submodF, decode_encode .dblmodF,
    decode_encode .reduceF, decode_encode .halveF, decode_encode .isevenF, decode_encode .cmpF, decode_encode .fibF,
    decode_encode .mulmodB, decode_encode .addmodB, decode_encode .submodB, decode_encode .dblmodB, decode_encode .reduceB,
    decode_encode .halveB, decode_encode .isevenB, decode_encode .cmpB, decode_encode .fibB,
    fun _ i h => eq_encode_of_decode h ▸ encode_toNat_range i⟩

/-- Settles O3: clause by clause the decoder's tests; a legal word's code and lane are those the table was read with. -/
theorem decodingFollowsTheFields : Obligations.DecodingFollowsTheFields := by
  intro w
  refine ⟨decode_reservedBits, decode_reservedOp, decode_nopWithLane, fun h hop hn => ?_⟩
  have hbit := toNat_laneBit_laneOf h
  obtain ⟨i, hi⟩ : ∃ i, instrOf (w.toNat % 16) (laneOf (fieldsOf w).lane) = some i :=
    exists_instrOf hop fun ⟨h0, hb⟩ => hn ⟨h0, by rw [← hbit, hb]; rfl⟩
  refine ⟨i, by rw [decode_table h hop, hi, Option.elim], opCode_of_instrOf hi, fun _ => ?_⟩
  rw [← hbit, lane_of_instrOf hi]
  cases laneOf (fieldsOf w).lane <;> decide

/-- Settles O4: five words of commands, and a word for each test that refuses. -/
theorem writtenOutWordsDecode : Obligations.WrittenOutWordsDecode :=
  ⟨decode_encode .nop, decode_encode .mulmodF, decode_encode .submodB, decode_encode .cmpB, decode_encode .fibF,
    decode_reservedOp (by decide) (by decide), decode_nopWithLane (by decide) (by decide) (by decide),
    decode_reservedBits (by decide)⟩

/-! #### Modulus 0 (rule R98, U1) -/

theorem backend_zero_modulus (ln : Lane) {op : BeOp} (a b : Nat) (h : op.reducing = true) : backend ln op a b 0 = none :=
  Option.eq_none_iff_forall_ne_some.2 fun ans hans => (backend_eq_some_iff ln op a b 0).1 ⟨ans, hans⟩ ⟨h, rfl⟩

/-- Settles O37: a reducing primitive command presents a reducing code to its unit, which has no answer. -/
theorem zeroModulusHasNoAnswer : Obligations.ZeroModulusHasNoAnswer := by
  refine ⟨fun ln op a b h => backend_zero_modulus ln a b h, fun i s hp hr hf hm => ?_⟩
  obtain ⟨rfl, -⟩ | ⟨-, -, op, -, hop, he⟩ | ⟨hfib, -⟩ := exec_forms i
  · cases hr
  · have hb := backend_zero_modulus i.lane (s.rd i.lane .X) (s.rd i.lane .Y) (hop.trans hr)
    simp only [he, primitiveCommand, hp, execMicroStep, hm, hb]
  · simp [hfib] at hf

/-! #### Cycles in which the host writes or waits (rules R96, R101, R224) -/

/-- Settles O60: the clock edge takes the write alone. -/
theorem stepPerformsTheHostsWrite : Obligations.StepPerformsTheHostsWrite := by
  intro s a v tick ts rest hs hprog h
  calc step s = runTurn _ { s with schedule := ts } := step_eq_runTurn hs
    _ = clockEdge (accessPins false (.write a v)) tick { s with schedule := ts, program := rest } := runTurn_write rfl hprog
    _ = busWrite a v { s with schedule := ts, program := rest } := clockEdge_access h

theorem statusWord_bit_busy (s : State) : (statusWord s).getLsbD 0 = s.busy := by
  simp only [statusWord, BitVec.getLsbD_append]
  simp

/-- A `WAIT` ends where the `STATUS` word says idle (rule R101). -/
theorem accessEnds_wait (s : State) : accessEnds .wait (some (busRead s statusAddr)) = !s.busy :=
  congrArg not (statusWord_bit_busy s)

/-- A cycle in which the host waits: to the block it is a read of `STATUS`; the host goes on where the core is idle. -/
theorem runTurn_wait {n : Turn} {s : State} {rest : List HostAccess} {b : Bool} (hr : n.rst = false) (hh : n.host = true)
    (hp : s.program = .wait :: rest) (hb : s.busy = b) :
    runTurn n s = clockEdge (accessPins false (.read statusAddr)) n.tick
      { s with
        program := bif b then s.program else rest
        reads := { addr := statusAddr, value := busRead s statusAddr } :: s.reads } := by
  have hpres : presented n s = some .wait := by simp [presented, hh, hp]
  have hpins : turnPins n s = accessPins false (.read statusAddr) := by simp [turnPins, hpres, hr, accessPins]
  have hdata : busRdata (accessPins false (.read statusAddr)) s = some (busRead s statusAddr) := rfl
  simp only [runTurn, hostAfter, hpres, hpins, hdata, accessEnds_wait, hb, hp, List.tail_cons]
  cases b <;> rfl

/-- Settles O11: the access of a `WAIT` is a read, and only where it leaves the host's program depends on the word. -/
theorem waitRepeatsWhileBusy : Obligations.WaitRepeatsWhileBusy := by
  intro s tick ts rest hs hprog
  have hstep {b : Bool} (hb : s.busy = b) := (step_eq_runTurn hs).trans (runTurn_wait rfl rfl hprog hb)
  refine ⟨?_, fun hp => ?_, fun hp ht => ?_, fun hp ht i hi => ?_⟩
  · rw [busRead_status, statusWord_bit_busy, Bool.eq_iff_iff, State.busy_eq_true_iff, decide_eq_true_iff]
  · exact (hstep ((State.busy_eq_false_iff s).2 hp)).trans (clockEdge_access (.inl hp))
  · exact (hstep ((State.busy_eq_true_iff s).2 hp)).trans (clockEdge_access (.inr ht))
  · subst ht
    exact (hstep ((State.busy_eq_true_iff s).2 hp)).trans (clockEdge_read_busy hp hi)

/-! #### Loading a whole lane-B register (rules R101, R228, R279) -/

/-- A limb of a lane-B register that has an address stands there. -/
theorem targetOf_limb {L i : Nat} {r : Reg} {a : Addr} (ha : addrOf .b r i = some a) (hi : i < L) (h256 : L ≤ 256) :
    targetOf L a = .lane .b r i := by
  cases hk : indexOfReg r with
  | none => simp [addrOf, hk] at ha
  | some k =>
    obtain ⟨hr, h5⟩ := regOfIndex_of_indexOfReg hk
    simp only [addrOf, hk, Option.some.injEq] at ha
    subst ha
    exact targetOf_laneB hi (by omega) (Nat.mod_eq_of_lt (by omega)) hr

/-- A register the host may write has an address for every limb. -/
theorem exists_addrOf {r : Reg} (ln : Lane) (i : Nat) (hw : r.hostWritable = true) : ∃ a, addrOf ln r i = some a := by
  cases r <;> cases hw <;> cases ln <;> exact ⟨_, rfl⟩

/-- Written over, a register keeps nothing of the value before. -/
theorem wr_wr_same (s : State) (ln : Lane) (r : Reg) (x y : Nat) : (s.wr ln r x).wr ln r y = s.wr ln r y := by
  cases ln <;> cases r <;> rfl

/-- Written with the value it holds, a register is as it was. -/
theorem wr_rd_self {s : State} (hc : Capacity s) (ln : Lane) (r : Reg) : s.wr ln r (s.rd ln r) = s := by
  have hv := Nat.mod_eq_of_lt (rd_lt hc ln r)
  cases ln with
  | f => cases r <;> simp [State.wr]
  | b =>
    rw [State.wr, hv]
    cases r <;> rfl

/-- Two values of `n` limbs with the same limbs are one. -/
theorem eq_of_limbs {n x y : Nat} (hx : x < 2 ^ (64 * n)) (hy : y < 2 ^ (64 * n)) (h : ∀ i < n, limb x i = limb y i) :
    x = y := by
  rw [← Nat.mod_eq_of_lt hx, ← Nat.mod_eq_of_lt hy, ← valueOfLimbs_limbs, ← valueOfLimbs_limbs,
    List.map_congr_left fun i hi => h i (List.mem_range.1 hi)]

theorem performWrites_append (xs ys : List HostAccess) (s : State) :
    performWrites (xs ++ ys) s = andThen (performWrites xs s) (performWrites ys) := by
  induction xs generalizing s with
  | nil => rfl
  | cons x xs ih =>
    cases x with
    | write a v =>
      obtain ⟨t, ht⟩ := busWrite_goes_on a v s
      simp [performWrites, ht, ih]
    | read a => exact ih s
    | wait => exact ih s

/-- One limb of an `LDB` is one bus write. -/
theorem performWrites_writeLimb {r : Reg} {i : Nat} {a : Addr} (v : Nat) (s : State) (ha : addrOf .b r i = some a) :
    performWrites (writeLimb r v i) s = busWrite a (limb v i) s := by
  obtain ⟨t, ht⟩ := busWrite_goes_on a (limb v i) s
  simp [writeLimb, ha, accessAt, performWrites, ht]

/-- The first `n` writes of an `LDB` put the value's first `n` limbs in their places, whatever stood there. -/
theorem performWrites_ldb_prefix {s : State} {r : Reg} {n : Nat} (v : Nat) (hp : s.phase = .idle) (hc : Capacity s)
    (hw : r.hostWritable = true) (hn : n ≤ s.L) :
    ∃ x, performWrites ((List.range n).flatMap (writeLimb r v)) s = .next (s.wr .b r x) ∧ x < 2 ^ (64 * s.L) ∧
      ∀ i < n, limb x i = limb v i := by
  induction n with
  | zero => exact ⟨s.rd .b r, by rw [wr_rd_self hc]; rfl, hc.fits r, fun i hi => absurd hi (Nat.not_lt_zero i)⟩
  | succ n ih =>
    obtain ⟨x, hx, hlt, hlimbs⟩ := ih (by omega)
    obtain ⟨a, ha⟩ := exists_addrOf .b n hw
    have ht : targetOf (s.wr .b r x).L a = .lane .b r n := by
      rw [State.wr_L]
      exact targetOf_limb ha hn hc.le_256
    have hwrite := busWrite_operand_idle (limb v n) ((State.wr_phase s .b r x).trans hp) hw ht
    rw [State.rd_wr_fits hlt, wr_wr_same] at hwrite
    refine ⟨setLimb x n (limb v n), ?_, setLimb_lt _ hlt hn, fun i hi => ?_⟩
    · rw [List.range_succ, List.flatMap_append, List.flatMap_singleton, performWrites_append, hx, andThen_next,
        performWrites_writeLimb v _ ha, hwrite]
    · by_cases hin : i = n
      · rw [hin, limb_setLimb_same]
      · rw [limb_setLimb_other _ _ hin, hlimbs i (by omega)]

/-- Accesses each part of which leaves the state as it is leave it so together. -/
theorem performWrites_flatMap_of_ignored {s : State} {g : Nat → List HostAccess} (is : List Nat)
    (h : ∀ i ∈ is, performWrites (g i) s = .next s) : performWrites (is.flatMap g) s = .next s := by
  induction is with
  | nil => rfl
  | cons i is ih =>
    rw [List.flatMap_cons, performWrites_append, h i List.mem_cons_self, andThen_next,
      ih fun j hj => h j (List.mem_cons_of_mem i hj)]

/-- Settles O47: after all `L` writes the register has the limbs of the value, so it is the value; `B.R` takes none. -/
theorem ldbWritesEveryLimb : Obligations.LdbWritesEveryLimb := by
  refine ⟨fun s r v hp hc hwf => ?_, fun s v hc => performWrites_flatMap_of_ignored _ fun i hi => ?_⟩
  · obtain ⟨hw, hv⟩ : r.hostWritable = true ∧ v < 2 ^ (64 * s.L) := by
      rwa [HostLine.wf, Bool.and_eq_true, decide_eq_true_iff] at hwf
    obtain ⟨x, hx, hlt, hlimbs⟩ := performWrites_ldb_prefix v hp hc hw le_rfl
    rw [HostLine.expand, hx, eq_of_limbs hlt hv hlimbs]
  · have ht := targetOf_limb (r := .R) rfl (List.mem_range.1 hi) hc.le_256
    rw [performWrites_writeLimb v s rfl, busWrite, ht, writeTarget]
    rfl

end Sys2Proof.Proofs.Encoding

/-! ### Proofs: the modular arithmetic family -/

namespace Sys2Proof.Proofs.ModArith

open Sys2Proof.Machine Sys2Proof.Safety Sys2Proof.Proofs.StateFamily

/-! #### The 128-bit domain (rules R120, R121) -/

theorem toNat_ne_zero {m : Word} (hm : m ≠ 0) : m.toNat ≠ 0 := by bv_omega

theorem zext128_toNat (x : Word) : (zext128 x).toNat = x.toNat := by
  have := x.isLt
  rw [zext128, BitVec.toNat_setWidth]
  omega

/-- The product of two words fits in 128 bits. -/
theorem zext128_mul_toNat (x y : Word) : (zext128 x * zext128 y).toNat = x.toNat * y.toNat := by
  have hlt : x.toNat * y.toNat < 2 ^ 64 * 2 ^ 64 := Nat.mul_lt_mul'' x.isLt y.isLt
  rw [BitVec.toNat_mul, zext128_toNat, zext128_toNat, Nat.mod_eq_of_lt (by omega)]

/-- So does their sum. -/
theorem zext128_add_toNat (x y : Word) : (zext128 x + zext128 y).toNat = x.toNat + y.toNat := by
  have := x.isLt
  have := y.isLt
  rw [BitVec.toNat_add, zext128_toNat, zext128_toNat, Nat.mod_eq_of_lt (by omega)]

/-- With the modulus added first, the difference of two residues neither wraps nor goes below 0. -/
theorem zext128_residue_sub_toNat (x y : Word) {m : Word} (hm : m ≠ 0) :
    (zext128 x % zext128 m + zext128 m - zext128 y % zext128 m).toNat =
      x.toNat % m.toNat + m.toNat - y.toNat % m.toNat := by
  have hm' := Nat.pos_of_ne_zero (toNat_ne_zero hm)
  have := m.isLt
  have hx : x.toNat % m.toNat < m.toNat := Nat.mod_lt _ hm'
  have hy : y.toNat % m.toNat < m.toNat := Nat.mod_lt _ hm'
  simp only [BitVec.toNat_sub, BitVec.toNat_add, BitVec.toNat_umod, zext128_toNat]
  omega

/-- Settles O34: the exact values of the three intermediates, and the narrowing of a remainder, which fits in 64 bits. -/
theorem wideDomainNeverWraps : Obligations.WideDomainNeverWraps := fun x y _ hm =>
  ⟨zext128_mul_toNat x y, zext128_add_toNat x y, zext128_residue_sub_toNat x y hm, fun v => narrowMod_toNat v hm⟩

/-! #### The operations of the two units as residues (rules R122 to R126, R142 to R146) -/

section
variable (x y : Word) {m : Word} (hm : m ≠ 0)
include hm

theorem mm64Mulmod_toNat : (mm64Mulmod x y m).toNat = x.toNat * y.toNat % m.toNat := by
  rw [mm64Mulmod, narrowMod_toNat _ hm, zext128_mul_toNat]

theorem mm64Addmod_toNat : (mm64Addmod x y m).toNat = (x.toNat + y.toNat) % m.toNat := by
  rw [mm64Addmod, narrowMod_toNat _ hm, zext128_add_toNat]

theorem mm64Dblmod_toNat : (mm64Dblmod x m).toNat = 2 * x.toNat % m.toNat := by
  rw [mm64Dblmod, narrowMod_toNat _ hm, zext128_add_toNat, two_mul]

theorem mm64Reduce_toNat : (mm64Reduce x m).toNat = x.toNat % m.toNat := by
  rw [mm64Reduce, narrowMod_toNat _ hm, zext128_toNat]

end

/-- The difference of lane B, taken on residues, is the residue of the integer difference (rules R7, R144). -/
theorem mmwSubmod_cast (x y : Nat) {m : Nat} (hm : m ≠ 0) : (mmwSubmod x y m : Int) = ((x : Int) - y) % m := by
  have hx : x % m < m := Nat.mod_lt _ (Nat.pos_of_ne_zero hm)
  have hres : ((x : Int) - y) % m = (((x % m : Nat) : Int) - (y % m : Nat)) % m := by
    rw [Int.sub_emod, Int.natCast_mod, Int.natCast_mod]
  have hy : y % m < m := Nat.mod_lt _ (Nat.pos_of_ne_zero hm)
  rw [hres]
  simp only [mmwSubmod]
  split
  · rw [← Int.add_emod_right, Int.emod_eq_of_lt] <;> omega
  · rw [Int.emod_eq_of_lt] <;> omega

/-- So is the difference of lane F (rules R7, R124). -/
theorem mm64Submod_cast (x y : Word) {m : Word} (hm : m ≠ 0) :
    ((mm64Submod x y m).toNat : Int) = ((x.toNat : Int) - y.toNat) % m.toNat := by
  rw [mm64Submod_toNat x y hm, mmwSubmod_cast _ _ (toNat_ne_zero hm)]

/-! #### The laws of lane F (rule R130) -/

/-- Subtracting and adding again leaves the residue. -/
theorem mm64Addmod_mm64Submod (x y : Word) {m : Word} (hm : m ≠ 0) :
    (mm64Addmod (mm64Submod x y m) y m).toNat = x.toNat % m.toNat := by
  rw [mm64Addmod_toNat _ _ hm, ← Int.natCast_inj]
  push_cast
  rw [mm64Submod_cast x y hm, Int.emod_add_emod, sub_add_cancel]

theorem mm64Reduce_eq_mulmod_one (x m : Word) : mm64Reduce x m = mm64Mulmod x 1 m := by
  have h1 : zext128 1 = 1 := rfl
  rw [mm64Reduce, mm64Mulmod, h1, mul_one]

theorem mm64Reduce_eq_addmod_zero (x m : Word) : mm64Reduce x m = mm64Addmod x 0 m := by
  have h0 : zext128 0 = 0 := rfl
  rw [mm64Reduce, mm64Addmod, h0, add_zero]

theorem mm64Mulmod_comm (x y m : Word) : mm64Mulmod x y m = mm64Mulmod y x m := by
  rw [mm64Mulmod, mul_comm, mm64Mulmod]

theorem mm64Addmod_comm (x y m : Word) : mm64Addmod x y m = mm64Addmod y x m := by
  rw [mm64Addmod, add_comm, mm64Addmod]

theorem mm64Submod_lt (x y : Word) {m : Word} (hm : m ≠ 0) : mm64Submod x y m < m := by
  rw [BitVec.lt_def, mm64Submod_toNat x y hm]
  exact mmwSubmod_lt _ _ (Nat.pos_of_ne_zero (toNat_ne_zero hm))

/-- With modulus 1 nothing but 0 is below the modulus. -/
theorem eq_zero_of_lt_one {r m : Word} (h : r < m) (h1 : m = 1) : r = 0 := by bv_omega

/-- Settles O35: the residues, from which the laws and the agreement with lane B follow. -/
theorem laneFObeysTheArithmeticLaws : Obligations.LaneFObeysTheArithmeticLaws := by
  intro x y m hm
  have hmul := mm64Mulmod_toNat x y hm
  have hadd := mm64Addmod_toNat x y hm
  have hdbl := mm64Dblmod_toNat x hm
  have hred := mm64Reduce_toNat x hm
  have hlt (v : BitVec 128) : narrowMod v m < m := narrowMod_lt v hm
  have hsub := mm64Submod_lt x y hm
  exact ⟨hmul, hadd, mm64Submod_cast x y hm, mm64Addmod_mm64Submod x y hm, rfl, hred,
    mm64Reduce_eq_mulmod_one x m, mm64Reduce_eq_addmod_zero x m, mm64Mulmod_comm x y m, mm64Addmod_comm x y m,
    hlt _, hlt _, hsub, hlt _, hlt _,
    fun h1 => ⟨eq_zero_of_lt_one (hlt _) h1, eq_zero_of_lt_one (hlt _) h1, eq_zero_of_lt_one hsub h1,
      eq_zero_of_lt_one (hlt _) h1, eq_zero_of_lt_one (hlt _) h1⟩,
    hmul, hadd, mm64Submod_toNat x y hm, hdbl, hred⟩

/-! #### Issue and completion of a command (rules R221, R223) -/

/-- An error entry as the spec records it (rule R242). -/
theorem raise_eq_withError (e : BusError) (s : State) : raise e s = withError e.code s := by
  obtain ⟨h, h'⟩ | ⟨h, h'⟩ := raise_cases e s
  · rw [h', withError, if_pos h, ← h]
  · rw [h', withError, h]
    rfl

/-- A word written to `CMD` while busy is dropped, with `BusyViolation` recorded (rule R221, case 1). -/
theorem busWrite_cmd_busy {s : State} (w : Word) (hp : s.phase ≠ .idle) : busWrite cmdAddr w s = .next (withError 3 s) := by
  have ht : targetOf s.L cmdAddr = .cmd := rfl
  rw [busWrite, ht, writeTarget, issueCommand, if_pos (s.busy_eq_true_iff.2 hp), raise_eq_withError]
  rfl

section
variable {i : Instr} {ln : Lane} {op : BeOp} {s : State} {r : Nat}

/-- A reducing command whose modulus is 0 is refused (rule R221, case 3). -/
theorem exec_refused (hp : s.phase = .idle) (hr : i.reducing = true) (hm : s.rd i.lane .M = 0) :
    exec i s = .next (withError 1 { s with done := false }) := by
  obtain ⟨-, -, e⟩ | ⟨hn, -⟩ :=
    issueChecked_cases i i.lane (if i.isFib then acceptFib i i.lane else acceptPrimitive i) s
  · rw [exec_idle i hp, e, refuseCommand, raise_eq_withError]
    rfl
  · exact absurd ⟨hr, hm⟩ hn

/-- A primitive command is accepted into `EXEC` where it does not reduce or its modulus is not 0 (rule R221, case 4). -/
theorem exec_accepted (hp : s.phase = .idle) (hf : i.isFib = false) (hm : i.reducing = true → s.rd i.lane .M ≠ 0) :
    exec i s = .next { s with cmd := encode i, done := false, phase := .exec, lvl := 0, upc := 0 } := by
  obtain ⟨hr, h0, -⟩ | ⟨-, e⟩ :=
    issueChecked_cases i i.lane (if i.isFib then acceptFib i i.lane else acceptPrimitive i) s
  · exact absurd h0 (hm hr)
  · rw [exec_idle i hp, e, if_neg (by simp [hf]), acceptPrimitive_eq]
    rfl

/-- A unit's value goes to `R` and the command completes (rules R97, R223). -/
theorem primitiveCommand_value (hp : s.phase = .exec)
    (h : backend ln op (s.rd ln .X) (s.rd ln .Y) (s.rd ln .M) = some (.value r)) :
    primitiveCommand i ln op s = .next (complete (s.wr ln .R r)) := by
  simp only [primitiveCommand, hp, execMicroStep, h, routeAnswer]

end

/-! #### The life of a reducing command, lane by lane -/

/-- From issue to completion: what a reducing command of lane F does whose result is `r` (rules R221, R223). -/
structure LifeF (i : Instr) (s : State) (r : Nat) : Prop where
  refused : s.phase = .idle → s.f.M = 0 → exec i s = .next (withError 1 { s with done := false })
  accepted : s.phase = .idle → s.f.M ≠ 0 →
    exec i s = .next { s with cmd := encode i, done := false, phase := .exec, lvl := 0, upc := 0 }
  completed : s.phase = .exec → s.f.M ≠ 0 →
    exec i s = .next { s with f := { s.f with R := BitVec.ofNat 64 r }, done := true, phase := .idle }

/-- From issue to completion: what a reducing command of lane B does whose result is `r` (rules R221, R223). -/
structure LifeB (i : Instr) (s : State) (r : Nat) : Prop where
  refused : s.phase = .idle → s.b.M = 0 → exec i s = .next (withError 1 { s with done := false })
  accepted : s.phase = .idle → s.b.M ≠ 0 →
    exec i s = .next { s with cmd := encode i, done := false, phase := .exec, lvl := 0, upc := 0 }
  completed : s.phase = .exec → s.b.M ≠ 0 → Capacity s →
    exec i s = .next { s with b := { s.b with R := r }, done := true, phase := .idle }

section
variable {i : Instr} {s : State} {r : Nat} (op : BeOp)

/-- The unit's value goes to the 64 bits of `F.R`. -/
theorem lifeF_of_value (hl : i.lane = .f) (hf : i.isFib = false) (hr : i.reducing = true)
    (hi : exec i s = primitiveCommand i .f op s)
    (hv : s.f.M ≠ 0 → mm64 op s.f.X s.f.Y s.f.M = .value r) : LifeF i s r where
  refused hp hm := exec_refused hp hr (by rw [hl]; exact congrArg BitVec.toNat hm)
  accepted hp hm := exec_accepted hp hf fun _ => by rw [hl]; exact toNat_ne_zero hm
  completed hp hm := by
    have hans : backend .f op (s.rd .f .X) (s.rd .f .Y) (s.rd .f .M) = some (.value r) := by
      simp [backend, toNat_ne_zero hm, hv hm]
    rw [hi, primitiveCommand_value hp hans]
    rfl

/-- The unit's value is below the modulus, so it fits in the `W` bits of `B.R` (rule R140). -/
theorem lifeB_of_value (hl : i.lane = .b) (hf : i.isFib = false) (hr : i.reducing = true)
    (hi : exec i s = primitiveCommand i .b op s) (hop : op.reducing = true)
    (hv : mmw op s.b.X s.b.Y s.b.M = .value r) : LifeB i s r where
  refused hp hm := exec_refused hp hr (by rw [hl]; exact hm)
  accepted hp hm := exec_accepted hp hf fun _ => by rw [hl]; exact hm
  completed hp hm hc := by
    have hans : backend .b op (s.rd .b .X) (s.rd .b .Y) (s.rd .b .M) = some (.value r) := by
      simp [backend, hm, hv]
    have hlt : r < 2 ^ s.XW .b := by
      obtain ⟨r', hr', hlt⟩ := mmw_value_lt s.b.X s.b.Y hop (Nat.pos_of_ne_zero hm)
      obtain rfl : r = r' := BeAnswer.value.inj (hv.symm.trans hr')
      exact lt_XW_of_lt_modulus hc hlt
    rw [hi, primitiveCommand_value hp hans, State.wr, Nat.mod_eq_of_lt hlt]
    rfl

end

/-! #### The five commands of both lanes -/

/-- Settles O13: the life of `MULMOD` with the product's residue, and the busy write of its words. -/
theorem mulmodMultipliesModuloM : Obligations.MulmodMultipliesModuloM := by
  refine ⟨decode_encode .mulmodF, decode_encode .mulmodB, fun s => ?_⟩
  have hF : LifeF .mulmodF s _ := lifeF_of_value .mulmod rfl rfl rfl rfl
    fun hm => congrArg BeAnswer.value (mm64Mulmod_toNat _ _ hm)
  have hB : LifeB .mulmodB s _ := lifeB_of_value .mulmod rfl rfl rfl rfl rfl rfl
  exact ⟨hF.refused, hF.accepted, hF.completed, hB.refused, hB.accepted, hB.completed,
    fun hp => ⟨busWrite_cmd_busy _ hp, busWrite_cmd_busy _ hp⟩⟩

/-- Settles O14: the life of `ADDMOD` with the sum's residue. -/
theorem addmodAddsModuloM : Obligations.AddmodAddsModuloM := by
  refine ⟨decode_encode .addmodF, decode_encode .addmodB, fun s => ?_⟩
  have hF : LifeF .addmodF s _ := lifeF_of_value .addmod rfl rfl rfl rfl
    fun hm => congrArg BeAnswer.value (mm64Addmod_toNat _ _ hm)
  have hB : LifeB .addmodB s _ := lifeB_of_value .addmod rfl rfl rfl rfl rfl rfl
  exact ⟨hF.refused, hF.accepted, hF.completed, hB.refused, hB.accepted, hB.completed⟩

/-- Settles O15: the life of `SUBMOD`, the difference on residues being the integer difference's residue. -/
theorem submodGivesTheNonNegativeResidue : Obligations.SubmodGivesTheNonNegativeResidue := by
  refine ⟨decode_encode .submodF, decode_encode .submodB, fun s => ?_⟩
  have hF : LifeF .submodF s _ := lifeF_of_value .submod rfl rfl rfl rfl fun _ => rfl
  have hB : LifeB .submodB s _ := lifeB_of_value .submod rfl rfl rfl rfl rfl rfl
  refine ⟨hF.refused, hF.accepted, fun hp hm => ?_, hB.refused, hB.accepted, fun hp hm hc => ?_⟩
  · rw [← mm64Submod_cast _ _ hm, BitVec.ofInt_natCast]
    exact hF.completed hp hm
  · rw [← mmwSubmod_cast _ _ hm, Int.toNat_natCast]
    exact hB.completed hp hm hc

/-- Settles O16: the life of `DBLMOD` with the double's residue. -/
theorem dblmodDoublesModuloM : Obligations.DblmodDoublesModuloM := by
  refine ⟨decode_encode .dblmodF, decode_encode .dblmodB, fun s => ?_⟩
  have hF : LifeF .dblmodF s _ := lifeF_of_value .dblmod rfl rfl rfl rfl
    fun hm => congrArg BeAnswer.value (mm64Dblmod_toNat _ hm)
  have hB : LifeB .dblmodB s _ := lifeB_of_value .dblmod rfl rfl rfl rfl rfl rfl
  exact ⟨hF.refused, hF.accepted, hF.completed, hB.refused, hB.accepted, hB.completed⟩

/-- Settles O17: the life of `REDUCE` with the operand's residue. -/
theorem reduceTakesTheRemainder : Obligations.ReduceTakesTheRemainder := by
  refine ⟨decode_encode .reduceF, decode_encode .reduceB, fun s => ?_⟩
  have hF : LifeF .reduceF s _ := lifeF_of_value .reduce rfl rfl rfl rfl
    fun hm => congrArg BeAnswer.value (mm64Reduce_toNat _ hm)
  have hB : LifeB .reduceB s _ := lifeB_of_value .reduce rfl rfl rfl rfl rfl rfl
  exact ⟨hF.refused, hF.accepted, hF.completed, hB.refused, hB.accepted, hB.completed⟩

end Sys2Proof.Proofs.ModArith

/-! ### Proofs: the family of lane B's multiplier -/

namespace Sys2Proof.Proofs.LaneConsistency

open Sys2Proof.Machine Sys2Proof.Proofs.StateFamily Sys2Proof.Proofs.Memory Sys2Proof.Proofs.ModArith

/-- The two units compute one function of the naturals their operands stand for (rule R147). -/
theorem mm64_eq_mmw (op : BeOp) (x y : Word) {m : Word} (hm : m ≠ 0) :
    mm64 op x y m = mmw op x.toNat y.toNat m.toNat := by
  cases op with
  | mulmod => exact congrArg BeAnswer.value (mm64Mulmod_toNat x y hm)
  | addmod => exact congrArg BeAnswer.value (mm64Addmod_toNat x y hm)
  | submod => exact congrArg BeAnswer.value (mm64Submod_toNat x y hm)
  | dblmod => exact congrArg BeAnswer.value (mm64Dblmod_toNat x hm)
  | reduce => exact congrArg BeAnswer.value (mm64Reduce_toNat x hm)
  | halve => exact congrArg BeAnswer.value (BitVec.toNat_ushiftRight x 1)
  | iseven | cmp => rfl

/-- On values of 64 bits the backend ports of both lanes give one answer, whatever the code. -/
theorem backend_f_eq_backend_b (op : BeOp) {x y m : Nat} (hx : x < 2 ^ 64) (hy : y < 2 ^ 64) (hm : m < 2 ^ 64)
    (h0 : m ≠ 0) : backend .f op x y m = backend .b op x y m := by
  have hword {v : Nat} (hv : v < 2 ^ 64) : (BitVec.ofNat 64 v).toNat = v := Nat.mod_eq_of_lt hv
  have hne : BitVec.ofNat 64 m ≠ 0 := fun h => h0 (by rw [← hword hm, h]; rfl)
  have hunits : mm64 op (BitVec.ofNat 64 x) (BitVec.ofNat 64 y) (BitVec.ofNat 64 m) = mmw op x y m := by
    rw [mm64_eq_mmw op _ _ hne, hword hx, hword hy, hword hm]
  simp [backend, h0, hunits]

/-- Settles O36: a reducing code gets a value below the modulus from lane B's port, and lane F's port answers the same. -/
theorem lanesGiveOneAnswer : Obligations.LanesGiveOneAnswer := by
  intro op x y m hop hx hy hm h1
  have h0 : m ≠ 0 := Nat.ne_of_gt h1
  have hf : backendValue .f op x y m = backendValue .b op x y m := by
    simp only [backendValue, backend_f_eq_backend_b op hx hy hm h0]
  obtain ⟨r, hb⟩ := backendValue_answers .b x y (answers_of_reducing hop) (fun _ => h0)
  exact ⟨r, hf.trans hb, hb, backendValue_lt hop h0 (fun _ => hm) hb⟩

end Sys2Proof.Proofs.LaneConsistency

/-! ### Proofs: the family of the index operations -/

namespace Sys2Proof.Proofs.IndexOps

open Sys2Proof.Machine Sys2Proof.Safety Sys2Proof.Proofs.StateFamily Sys2Proof.Proofs.ModArith

/-! #### The values of the units (rules R161, R162, R164, R165) -/

theorem mm64Halve_toNat (x : Word) : (mm64Halve x).toNat = x.toNat / 2 := BitVec.toNat_ushiftRight x 1

theorem mmwHalve_eq (x : Nat) : mmwHalve x = x / 2 := Nat.shiftRight_eq_div_pow x 1

/-- Bit 0 is 0 just where the value is even. -/
theorem evFlag_eq (x : Nat) : evFlag x = decide (x % 2 = 0) := by
  rw [evFlag, Nat.testBit_zero, ← decide_not, decide_eq_decide]
  omega

/-! #### Issue and completion of a command that does not reduce (rules R160, R221, R223) -/

/-- From issue to completion: what a command that does not reduce does when its unit answers `ans`. The modulus of its lane
is asked for nowhere (rule R160). -/
structure LifeIndex (i : Instr) (s : State) (ans : BeAnswer) : Prop where
  accepted : s.phase = .idle →
    exec i s = .next { s with cmd := encode i, done := false, phase := .exec, lvl := 0, upc := 0 }
  completed : s.phase = .exec → exec i s = .next (complete (routeAnswer i.lane ans s))

section
variable {op : BeOp} (hop : op.reducing = false) (s : State)
include hop

/-- Lane F's unit answers a code that does not reduce whatever `M` holds, `X` and `Y` presented as the words they are. -/
theorem backend_f_of_not_reducing :
    backend .f op (s.rd .f .X) (s.rd .f .Y) (s.rd .f .M) = some (mm64 op s.f.X s.f.Y s.f.M) := by
  simp [backend, hop]

/-- So does lane B's unit. -/
theorem backend_b_of_not_reducing :
    backend .b op (s.rd .b .X) (s.rd .b .Y) (s.rd .b .M) = some (mmw op s.b.X s.b.Y s.b.M) := by
  simp [backend, hop]

end

/-- The unit's answer `a`, in the words of the rule `ans`, goes to `R` or the flags (rules R97, R223). -/
theorem lifeIndex_of_answer {i : Instr} {s : State} {a ans : BeAnswer} (op : BeOp) (hf : i.isFib = false)
    (hr : i.reducing = false) (hi : exec i s = primitiveCommand i i.lane op s)
    (hb : backend i.lane op (s.rd i.lane .X) (s.rd i.lane .Y) (s.rd i.lane .M) = some a) (ha : a = ans) :
    LifeIndex i s ans where
  accepted hp := exec_accepted hp hf fun h => absurd h (by simp [hr])
  completed hp := by simp only [hi, primitiveCommand, hp, execMicroStep, hb, ha]

/-! #### The three commands of both lanes -/

/-- Settles O18: the life of `HALVE`; half of a value that fits lane B's register fits it too. -/
theorem halveShiftsRightByOne : Obligations.HalveShiftsRightByOne := by
  refine ⟨decode_encode .halveF, decode_encode .halveB, fun s => ?_⟩
  have hF : LifeIndex .halveF s _ := lifeIndex_of_answer .halve rfl rfl rfl
    (backend_f_of_not_reducing rfl s) (congrArg BeAnswer.value (mm64Halve_toNat s.f.X))
  have hB : LifeIndex .halveB s _ := lifeIndex_of_answer .halve rfl rfl rfl
    (backend_b_of_not_reducing rfl s) (congrArg BeAnswer.value (mmwHalve_eq s.b.X))
  refine ⟨hF.accepted, hF.completed, hB.accepted, fun hp hc => ?_⟩
  have hfits : s.b.X / 2 < 2 ^ s.XW .b := (Nat.div_le_self _ 2).trans_lt (rd_lt hc .b .X)
  rw [hB.completed hp, routeAnswer, Instr.lane, State.wr, Nat.mod_eq_of_lt hfits]
  rfl

/-- Settles O19: the life of `ISEVEN`, whose answer goes to `EV` alone. -/
theorem isevenWritesOnlyEV : Obligations.IsevenWritesOnlyEV := by
  refine ⟨decode_encode .isevenF, decode_encode .isevenB, fun s => ?_⟩
  have hF : LifeIndex .isevenF s _ := lifeIndex_of_answer .iseven rfl rfl rfl
    (backend_f_of_not_reducing rfl s) (congrArg BeAnswer.parity (evFlag_eq s.f.X.toNat))
  have hB : LifeIndex .isevenB s _ := lifeIndex_of_answer .iseven rfl rfl rfl
    (backend_b_of_not_reducing rfl s) (congrArg BeAnswer.parity (evFlag_eq s.b.X))
  exact ⟨hF.accepted, hF.completed, hB.accepted, hB.completed⟩

/-- Settles O20: the life of `CMP`, whose answer goes to `GT` and `EQ` alone. -/
theorem cmpWritesOnlyGTandEQ : Obligations.CmpWritesOnlyGTandEQ := by
  refine ⟨decode_encode .cmpF, decode_encode .cmpB, fun s => ?_⟩
  have hF : LifeIndex .cmpF s _ := lifeIndex_of_answer .cmp rfl rfl rfl (backend_f_of_not_reducing rfl s) rfl
  have hB : LifeIndex .cmpB s _ := lifeIndex_of_answer .cmp rfl rfl rfl (backend_b_of_not_reducing rfl s) rfl
  exact ⟨hF.accepted, hF.completed, hB.accepted, hB.completed⟩

end Sys2Proof.Proofs.IndexOps

/-! ### Proofs: the family of the Fibonacci doubler -/

namespace Sys2Proof.Proofs.FibDoubler

open Sys2Proof.Machine Sys2Proof.Safety Sys2Proof.Proofs.StateFamily Sys2Proof.Proofs.Memory Sys2Proof.Proofs.ModArith
  Sys2Proof.Proofs.LaneConsistency

/-! #### The pair recursion and the Fibonacci numbers (rules R9, R180) -/

/-- Lane B's difference as one residue: what is to be taken away is first taken from the modulus (rules R144, R184). -/
theorem mmwSubmod_eq (x y : Nat) {m : Nat} (hm : m ≠ 0) : mmwSubmod x y m = (x + (m - y % m)) % m := by
  have hx : x % m < m := Nat.mod_lt _ (Nat.pos_of_ne_zero hm)
  have hy : y % m < m := Nat.mod_lt _ (Nat.pos_of_ne_zero hm)
  rw [← Nat.mod_add_mod, mmwSubmod]
  generalize x % m = x' at *
  generalize y % m = y' at *
  by_cases hlt : y' > x'
  · rw [if_pos hlt, Nat.mod_eq_of_lt (by omega)]
    omega
  · rw [if_neg hlt, show x' + (m - y') = x' - y' + m by omega, Nat.add_mod_right, Nat.mod_eq_of_lt (by omega)]

/-- F(2k) = F(k)·(2·F(k+1) − F(k)) on residues, as a level computes it (rule R189). -/
theorem fibMod_two_mul (k : Nat) {m : Nat} (hm : m ≠ 0) :
    fibMod k m * ((2 * fibMod (k + 1) m + (m - fibMod k m)) % m) % m = fibMod (2 * k) m := by
  have hle : Nat.fib k % m ≤ m := (Nat.mod_lt _ (Nat.pos_of_ne_zero hm)).le
  have hfib : Nat.fib k ≤ 2 * Nat.fib (k + 1) := Nat.fib_le_fib_succ.trans (Nat.le_mul_of_pos_left _ two_pos)
  simp only [fibMod]
  rw [← ZMod.natCast_eq_natCast_iff', Nat.fib_two_mul, Nat.cast_mul, Nat.cast_mul, ZMod.natCast_mod, ZMod.natCast_mod,
    Nat.cast_add, Nat.cast_sub hle, Nat.cast_sub hfib]
  push_cast
  simp only [ZMod.natCast_mod, ZMod.natCast_self]
  ring

/-- F(2k+1) = F(k)² + F(k+1)² on residues, as a level computes it (rule R189). -/
theorem fibMod_two_mul_add_one (k m : Nat) :
    (fibMod k m * fibMod k m % m + fibMod (k + 1) m * fibMod (k + 1) m % m) % m = fibMod (2 * k + 1) m := by
  simp only [fibMod, ← Nat.mul_mod, ← Nat.add_mod]
  rw [Nat.fib_two_mul_add_one, add_comm, sq, sq]

/-- The recurrence on residues (rule R197 (b)). -/
theorem fibMod_add_two (k m : Nat) : (fibMod k m + fibMod (k + 1) m) % m = fibMod (k + 2) m := by
  rw [fibMod, fibMod, ← Nat.add_mod, fibMod, Nat.fib_add_two]

/-- One return of the recursion takes the pair of `k` to the pair of `2·k`, or of `2·k + 1` where the index is odd. -/
theorem doublePair_fibMod (odd : Bool) (k : Nat) {m : Nat} (hm : m ≠ 0) :
    doublePair m odd (fibMod k m, fibMod (k + 1) m) =
      (fibMod (2 * k + odd.toNat) m, fibMod (2 * k + odd.toNat + 1) m) := by
  have ha : fibMod k m % m = fibMod k m := Nat.mod_mod _ m
  have hu := mmwSubmod_eq (2 * fibMod (k + 1) m % m) (fibMod k m) hm
  rw [mmwSubmod, Nat.mod_add_mod, Nat.mod_mod, ha] at hu
  simp only [doublePair, hu, fibMod_two_mul k hm, fibMod_two_mul_add_one, fibMod_add_two]
  cases odd <;> rfl

/-- An index is twice its half and its bit 0. -/
theorem two_mul_half_add_bit (k : Nat) : 2 * (k / 2) + (k.testBit 0).toNat = k := by
  rw [Nat.testBit_zero]
  obtain h | h := Nat.mod_two_eq_zero_or_one k <;> simp [h] <;> omega

/-- With halvings enough the recursion gives the pair (F(k) mod m, F(k+1) mod m). -/
theorem pairWithin_eq {m : Nat} (hm : m ≠ 0) {fuel k : Nat} (h : bitlen k ≤ fuel) :
    pairWithin m fuel k = (fibMod k m, fibMod (k + 1) m) := by
  induction fuel generalizing k with
  | zero =>
    obtain rfl : k = 0 := by simpa using (bitlen_le_iff k 0).1 h
    rfl
  | succ fuel ih =>
    unfold pairWithin
    split
    · rename_i h0
      rw [h0]
      rfl
    · have hhalf : bitlen (k / 2) ≤ fuel := by
        rw [bitlen_le_iff, pow_succ] at *
        omega
      rw [ih hhalf, doublePair_fibMod _ _ hm, two_mul_half_add_bit]

theorem fibPair_eq {m : Nat} (hm : m ≠ 0) (k : Nat) : fibPair m k = (fibMod k m, fibMod (k + 1) m) :=
  pairWithin_eq hm le_rfl

/-- Settles O27: the closed form, and the recursive case from it. -/
theorem pairRecursionGivesFibonacci : Obligations.PairRecursionGivesFibonacci := by
  intro m h1
  have hm : m ≠ 0 := Nat.ne_of_gt h1
  refine ⟨rfl, fun k _ => ?_, fibPair_eq hm⟩
  rw [fibPair_eq hm, fibPair_eq hm, doublePair_fibMod _ _ hm, ← Nat.testBit_zero, two_mul_half_add_bit]

/-- F(n + 60) and F(n) end in the same digit (rule R197 (e)). -/
theorem fibMod_add_sixty (n : Nat) : fibMod (n + 60) 10 = fibMod n 10 := by
  have h59 : Nat.fib 59 % 10 = 1 := by norm_num
  have h60 : Nat.fib 60 % 10 = 0 := by norm_num
  rw [fibMod, fibMod, Nat.fib_add n 59, Nat.add_mod, Nat.mul_mod _ (Nat.fib 59), h59, Nat.mul_mod _ (Nat.fib 60), h60]
  simp

/-- Settles O28: each property is one of the Fibonacci numbers, by the closed form of the pair. -/
theorem resultHasTheStatedProperties : Obligations.ResultHasTheStatedProperties := by
  refine ⟨fun m h1 => ?_, fun n m hn h1 => ?_, fun n => ?_, fun n => ?_⟩
  · have hm : m ≠ 0 := Nat.ne_of_gt h1
    simp only [fibPair_eq hm]
    exact ⟨rfl, rfl⟩
  · obtain ⟨k, rfl⟩ : ∃ k, n = k + 2 := ⟨n - 2, by omega⟩
    simp only [fibPair_eq (Nat.ne_of_gt h1)]
    rw [← fibMod_add_two, add_comm]
    rfl
  · rw [fibPair_eq one_ne_zero]
    exact Nat.mod_one _
  · simp only [fibPair_eq (show 10 ≠ 0 by decide)]
    exact fibMod_add_sixty n


/-! #### The micro-steps of `FIB` as the rules write them (rules R187 to R192) -/

theorem exec_fibOf (ln : Lane) (s : State) : exec (fibOf ln) s = fibCommand (fibOf ln) ln s := by cases ln <;> rfl

/-- A lane-F register holds 64 bits, the width lane F's unit takes. -/
theorem rd_lt_of_lane_f (s : State) (r : Reg) {ln : Lane} : ln = .f → s.rd ln r < 2 ^ 64 := by
  rintro rfl
  exact s.rd_f_lt r

/-- The backend port of either lane gives the exact natural-number value on operands that fit the lane (rule R147). -/
theorem backendValue_of_mmw {ln : Lane} {op : BeOp} {x y m v : Nat} (hx : ln = .f → x < 2 ^ 64)
    (hy : ln = .f → y < 2 ^ 64) (hm : ln = .f → m < 2 ^ 64) (h0 : m ≠ 0) (hv : mmw op x y m = .value v) :
    backendValue ln op x y m = some v := by
  have hb : backend .b op x y m = some (.value v) := by simp [backend, h0, hv]
  cases ln with
  | b => simp only [backendValue, hb]
  | f => simp only [backendValue, backend_f_eq_backend_b op (hx rfl) (hy rfl) (hm rfl) h0, hb]

/-- A backend operation of the controller writes its value and goes on. -/
theorem afterBackendInto_value {ln : Lane} {op : BeOp} {x y v : Nat} {dst : Reg} {s : State} {g : State → State}
    (h : backendValue ln op x y (s.rd ln .M) = some v) :
    afterBackend (backendInto ln op x y dst s) g = .next (g (s.wr ln dst v)) := by
  simp only [backendInto, h, Option.map_some, afterBackend]

section
variable {ln : Lane} {s : State}

/-- `DESC` with an index left (rule R187). -/
theorem exec_halve (hp : s.phase = .desc) (hk : s.rd ln .K ≠ 0) (hl : s.lvl < s.XW ln) :
    exec (fibOf ln) s = .next (moveTo .desc (s.lvl + 1) s.upc (s.wr ln .K (s.rd ln .K / 2))) := by
  obtain ⟨r, hr⟩ := backendValue_answers ln (s.rd ln .K) 0 (op := .halve) (m := s.rd ln .M) (by decide)
    (fun h => absurd h (by decide))
  obtain rfl := backendValue_halve (rd_lt_of_lane_f s .K) hr
  rw [exec_fibOf, fibCommand, hp]
  simp only [fibDesc, if_pos hk, afterBackendInto_value hr, State.wr_lvl]
  rw [State.setLvl_fits (ln := ln) (by simpa using hl)]
  simp [moveTo, hp]

/-- `DESC` with the index used up (rule R187). -/
theorem exec_turn (hp : s.phase = .desc) (hk : s.rd ln .K = 0) :
    exec (fibOf ln) s = .next (moveTo .base s.lvl s.upc s) := by
  simp [exec_fibOf, fibCommand, hp, fibDesc, hk, moveTo]

/-- `BASE` (rule R188). -/
theorem exec_base (hp : s.phase = .base) (hm : s.rd ln .M ≠ 0) :
    exec (fibOf ln) s =
      .next (moveTo (phaseAt s.lvl) s.lvl 0 ((s.wr ln .A 0).wr ln .B (1 % s.rd ln .M))) := by
  have hM : (s.wr ln .A 0).rd ln .M = s.rd ln .M := State.rd_wr_other_reg s ln 0 (by decide)
  have hv : backendValue ln .reduce 1 0 ((s.wr ln .A 0).rd ln .M) = some (1 % s.rd ln .M) := by
    rw [hM]
    exact backendValue_of_mmw (by simp) (by simp) (rd_lt_of_lane_f s .M) hm rfl
  rw [exec_fibOf, fibCommand, hp]
  simp [fibBase, afterBackendInto_value hv, moveTo, phaseAt]

/-- A row of the micro-program, its value taken on naturals (rule R189). -/
theorem exec_row {m : MicroOp} {v : Nat} (hp : s.phase = .asc) (hm : s.rd ln .M ≠ 0)
    (hrow : microProgram s.upc = some m) (hv : mmw m.op (s.rd ln m.a) (s.rd ln m.b) (s.rd ln .M) = .value v) :
    exec (fibOf ln) s = .next (moveTo .asc s.lvl (s.upc + 1) (s.wr ln m.dst v)) := by
  have hr := backendValue_of_mmw (rd_lt_of_lane_f s m.a) (rd_lt_of_lane_f s m.b) (rd_lt_of_lane_f s .M) hm hv
  rw [exec_fibOf, fibCommand, hp]
  simp [fibAsc, hrow, afterBackendInto_value hr, moveTo, hp]

/-- One level less, where the lane's width bounds the count (rule R190). -/
theorem nextLevel_of_le {t : State} (hl : t.lvl ≤ t.XW ln) : nextLevel t = moveTo (phaseAt (t.lvl - 1)) (t.lvl - 1) 0 t :=
  nextLevel_eq t (Nat.mod_eq_of_lt (State.lt_lvlW ((Nat.sub_le _ 1).trans hl))).symm

section
variable (hp : s.phase = .asc) (hu : s.upc = 6) (h1 : 1 ≤ s.lvl) (hl : s.lvl ≤ s.XW ln)
include hp hu h1 hl

/-- Micro-step 6 at an even index (rule R190). -/
theorem exec_even (hb : (s.rd ln .N).testBit (s.lvl - 1) = false) :
    exec (fibOf ln) s = .next (moveTo (phaseAt (s.lvl - 1)) (s.lvl - 1) 0
      ((s.wr ln .A (s.rd ln .C)).wr ln .B (s.rd ln .D))) := by
  have h0 : s.lvl ≠ 0 := Nat.ne_of_gt h1
  rw [exec_fibOf, fibCommand, hp]
  simp only [fibAsc, hu, microProgram, fibSelect, if_neg h0, hb]
  simp [nextLevel_of_le (ln := ln) (t := (s.wr ln .A (s.rd ln .C)).wr ln .B (s.rd ln .D)) (by simpa using hl)]

/-- Micro-step 6 at an odd index (rule R190). -/
theorem exec_odd (hm : s.rd ln .M ≠ 0) (hb : (s.rd ln .N).testBit (s.lvl - 1) = true) :
    exec (fibOf ln) s = .next (moveTo (phaseAt (s.lvl - 1)) (s.lvl - 1) 0
      ((s.wr ln .A (s.rd ln .D)).wr ln .B ((s.rd ln .C + s.rd ln .D) % s.rd ln .M))) := by
  have h0 : s.lvl ≠ 0 := Nat.ne_of_gt h1
  have hM : (s.wr ln .A (s.rd ln .D)).rd ln .M = s.rd ln .M := State.rd_wr_other_reg s ln _ (by decide)
  have hv : backendValue ln .addmod (s.rd ln .C) (s.rd ln .D) ((s.wr ln .A (s.rd ln .D)).rd ln .M) =
      some ((s.rd ln .C + s.rd ln .D) % s.rd ln .M) := by
    rw [hM]
    exact backendValue_of_mmw (rd_lt_of_lane_f s .C) (rd_lt_of_lane_f s .D) (rd_lt_of_lane_f s .M) hm rfl
  rw [exec_fibOf, fibCommand, hp]
  simp only [fibAsc, hu, microProgram, fibSelect, if_neg h0, hb, if_true, afterBackendInto_value hv]
  rw [nextLevel_of_le (ln := ln) (by simpa using hl)]
  simp

end

/-- `FIN` (rule R192). -/
theorem exec_fin (hp : s.phase = .fin) : exec (fibOf ln) s = .next (complete (s.wr ln .R (s.rd ln .A))) := by
  rw [exec_fibOf, fibCommand, hp]
  rfl

end

/-! #### Issue and micro-steps, on both lanes -/

/-- Settles O21: the issue of each lane's `FIB`; the copy of an index that fits its register loses no bit. -/
theorem fibStartsByCopyingTheIndex : Obligations.FibStartsByCopyingTheIndex := by
  refine ⟨decode_encode .fibF, decode_encode .fibB, fun s hp =>
    ⟨fun hm => ?_, fun hm => ?_, fun hm => ?_, fun hm hc => ?_⟩⟩
  · exact exec_refused hp rfl (congrArg BitVec.toNat hm)
  · have hK : BitVec.ofNat 64 (s.rd .f .N) = s.f.N := by simp
    exact (exec_fibOf_idle (ln := .f) hp (toNat_ne_zero hm)).trans (by rw [State.wr, hK]; rfl)
  · exact exec_refused hp rfl hm
  · have hK : s.rd .b .N % 2 ^ (latchCommand (fibOf .b) s).XW .b = s.b.N := Nat.mod_eq_of_lt (hc.fits .N)
    exact (exec_fibOf_idle (ln := .b) hp hm).trans (by rw [State.wr, hK]; rfl)

/-- An index of which a bit is left after `l` halvings has more than `l` bits. -/
theorem lt_bitlen_of_div_ne_zero {n l : Nat} (h : n / 2 ^ l ≠ 0) : l < bitlen n :=
  not_le.1 (mt (div_two_pow_eq_zero_iff n l).2 h)

/-- An index has no more bits than its register. -/
theorem bitlen_le_XW {s : State} (hc : Capacity s) (ln : Lane) (r : Reg) : bitlen (s.rd ln r) ≤ s.XW ln :=
  (bitlen_le_iff _ _).2 (rd_lt hc ln r)

/-- Settles O22: the invariant holds the level count below the length of the index while a bit is left. -/
theorem fibDescHalvesOrEnds : Obligations.FibDescHalvesOrEnds := by
  refine ⟨fun i s h hi hp hk => ?_, fun ln s hp => ⟨fun hk hl => ?_, fun hk => ?_⟩⟩
  · obtain ⟨hidx, -⟩ := h.desc_level i hi hp
    exact (lt_bitlen_of_div_ne_zero (hidx ▸ hk)).trans_le (bitlen_le_XW h.capacity i.lane .N)
  · rw [exec_halve hp hk hl]
    simp [moveTo, hp]
  · exact exec_turn hp hk

/-- Settles O23: the base pair, written as the micro-step leaves the controller. -/
theorem fibBaseLoadsTheBasePair : Obligations.FibBaseLoadsTheBasePair := by
  intro ln s hp hm
  rw [exec_base hp hm]
  simp [moveTo, phaseAt]

/-- Settles O24: each row is read off the micro-program, the difference of micro-step 1 as the integer residue. -/
theorem fibAscRunsTheMicroProgram : Obligations.FibAscRunsTheMicroProgram := by
  intro ln s hp hm
  have row {m : MicroOp} {v : Nat} {u : Fin 7} (hu : s.upc = u) (hrow : microProgram u = some m)
      (hv : mmw m.op (s.rd ln m.a) (s.rd ln m.b) (s.rd ln .M) = .value v) :
      exec (fibOf ln) s = .next { s.wr ln m.dst v with upc := u + 1 } := by
    rw [exec_row hp hm (hu ▸ hrow) hv, hu]
    simp [moveTo, hp]
  have hsub : ((s.rd ln .T : Int) - s.rd ln .A) % s.rd ln .M = (mmwSubmod (s.rd ln .T) (s.rd ln .A) (s.rd ln .M) : Int) :=
    (mmwSubmod_cast _ _ hm).symm
  rw [hsub, Int.toNat_natCast]
  exact ⟨fun hu => row hu rfl rfl, fun hu => row hu rfl rfl, fun hu => row hu rfl rfl, fun hu => row hu rfl rfl,
    fun hu => row hu rfl rfl, fun hu => row hu rfl rfl⟩

/-- Settles O25: the parity bit chooses between the two forms of micro-step 6. -/
theorem fibSelectsByTheParityBit : Obligations.FibSelectsByTheParityBit := by
  refine ⟨fun i s h hi hp => ⟨(h.asc_level i hi hp).1, h.level i hi⟩, fun ln s hp hu h1 hl hm => ?_⟩
  have hphase : phaseAt (s.lvl - 1) = if s.lvl = 1 then .fin else .asc := by
    rw [phaseAt]
    congr 1
    simp
    omega
  rw [← hphase]
  refine ⟨fun hb => ?_, fun hb => ?_⟩
  · rw [exec_even hp hu h1 hl (by simp [Nat.testBit_eq_decide_div_mod_eq, hb])]
    rfl
  · rw [exec_odd hp hu h1 hl hm (by simp [Nat.testBit_eq_decide_div_mod_eq, hb])]
    rfl


/-! #### Where a running `FIB` stands (rules R187 to R191) -/

section
variable {ln : Lane} {s t : State}

theorem fibProgress_desc (hp : s.phase = .desc) : FibProgress ln s ↔
    s.rd ln .K = s.rd ln .N / 2 ^ s.lvl ∧ s.lvl ≤ bitlen (s.rd ln .N) := by simp only [FibProgress, hp]

theorem fibProgress_base (hp : s.phase = .base) : FibProgress ln s ↔ s.lvl = bitlen (s.rd ln .N) := by
  simp only [FibProgress, hp]

theorem fibProgress_asc (hp : s.phase = .asc) : FibProgress ln s ↔
    1 ≤ s.lvl ∧ s.lvl ≤ bitlen (s.rd ln .N) ∧
      (s.rd ln .A, s.rd ln .B) = fibPair (s.rd ln .M) (s.rd ln .N / 2 ^ s.lvl) ∧
      LevelSoFar ln (s.rd ln .N / 2 ^ s.lvl) s := by simp only [FibProgress, hp]

theorem fibProgress_fin (hp : s.phase = .fin) : FibProgress ln s ↔
    s.lvl = 0 ∧ (s.rd ln .A, s.rd ln .B) = fibPair (s.rd ln .M) (s.rd ln .N) := by simp only [FibProgress, hp]

/-- Progress is read off the controller and the lane's registers alone. -/
theorem fibProgress_congr (hp : t.phase = s.phase) (hl : t.lvl = s.lvl) (hu : t.upc = s.upc)
    (hr : ∀ r, t.rd ln r = s.rd ln r) : FibProgress ln t ↔ FibProgress ln s := by
  simp only [FibProgress, LevelSoFar, hp, hl, hu, hr]

theorem fibRun_congr (h : FibRun ln s) (hp : t.phase = s.phase) (hl : t.lvl = s.lvl) (hu : t.upc = s.upc)
    (hc : t.cmd = s.cmd) (hf : t.f = s.f) (hb : t.b = s.b) : FibRun ln t :=
  have hr (r : Reg) : t.rd ln r = s.rd ln r := State.rd_congr hf hb ln r
  ⟨by rw [Latched, hc]; exact h.latched, by rw [hr]; exact h.modulus, (fibProgress_congr hp hl hu hr).2 h.progress⟩

theorem fibRun_not_idle (h : FibRun ln s) : s.phase ≠ .idle := fun hp => by
  have := h.progress
  simp [FibProgress, hp] at this

theorem fibRun_not_exec (h : FibRun ln s) : s.phase ≠ .exec := fun hp => by
  have := h.progress
  simp [FibProgress, hp] at this

/-- `t` is one micro-step further on in a `FIB` than `s`. -/
def Ahead (ln : Lane) (s t : State) : Prop := FibProgress ln t ∧ stepsLeft ln s = stepsLeft ln t + 1

/-- A residue of the modulus fits its register. -/
theorem mod_lt_XW (hc : Capacity s) (hm : s.rd ln .M ≠ 0) (x : Nat) : x % s.rd ln .M < 2 ^ s.XW ln :=
  lt_XW_of_lt_modulus hc (Nat.mod_lt _ (Nat.pos_of_ne_zero hm))

/-- A halving keeps the copy of the index in step with the level count (rule R187). -/
theorem ahead_halve (hc : Capacity s) (hp : s.phase = .desc) (hk : s.rd ln .K ≠ 0) (h : FibProgress ln s) :
    Ahead ln s (moveTo .desc (s.lvl + 1) s.upc (s.wr ln .K (s.rd ln .K / 2))) := by
  obtain ⟨hidx, -⟩ := (fibProgress_desc hp).1 h
  have hlt := lt_bitlen_of_div_ne_zero (hidx ▸ hk)
  have hfit : s.rd ln .K / 2 < 2 ^ s.XW ln := (Nat.div_le_self _ 2).trans_lt (rd_lt hc ln .K)
  have hN : (s.wr ln .K (s.rd ln .K / 2)).rd ln .N = s.rd ln .N := State.rd_wr_other_reg s ln _ (by decide)
  refine ⟨(fibProgress_desc rfl).2 ⟨?_, ?_⟩, ?_⟩
  · rw [moveTo_rd, moveTo_rd, State.rd_wr_fits hfit, hN, hidx, Nat.div_div_eq_div_mul, moveTo_lvl, pow_succ]
  · rw [moveTo_rd, hN]
    exact hlt
  · simp only [stepsLeft, hp, moveTo_phase, moveTo_lvl, moveTo_rd, hN]
    omega

/-- `DESC` ends with one level counted for each bit of the index (rule R187). -/
theorem ahead_turn (hp : s.phase = .desc) (hk : s.rd ln .K = 0) (h : FibProgress ln s) :
    Ahead ln s (moveTo .base s.lvl s.upc s) := by
  obtain ⟨hidx, hle⟩ := (fibProgress_desc hp).1 h
  have hl : s.lvl = bitlen (s.rd ln .N) := le_antisymm hle ((div_two_pow_eq_zero_iff _ _).1 (hidx ▸ hk))
  exact ⟨(fibProgress_base rfl).2 hl, by simp [stepsLeft, hp, hl]⟩

/-- Loading the pair of the level reached, as `BASE` and micro-step 6 do (rules R188, R190). -/
theorem fibProgress_loadPair {l x y : Nat} (hc : Capacity s) (hm : s.rd ln .M ≠ 0) (hl : l ≤ bitlen (s.rd ln .N))
    (hxy : (x, y) = fibPair (s.rd ln .M) (s.rd ln .N / 2 ^ l)) :
    FibProgress ln (moveTo (phaseAt l) l 0 ((s.wr ln .A x).wr ln .B y)) := by
  have hxy' := hxy
  rw [fibPair_eq hm, Prod.mk.injEq] at hxy'
  obtain ⟨hx, hy⟩ := hxy'
  have hx' : x < 2 ^ s.XW ln := hx ▸ mod_lt_XW hc hm _
  have hy' : y < 2 ^ (s.wr ln .A x).XW ln := by
    rw [State.wr_XW]
    exact hy ▸ mod_lt_XW hc hm _
  have hA : ((s.wr ln .A x).wr ln .B y).rd ln .A = x := by
    rw [State.rd_wr_other_reg _ _ _ (by decide), State.rd_wr_fits hx']
  have hB : ((s.wr ln .A x).wr ln .B y).rd ln .B = y := State.rd_wr_fits hy'
  have hN : ((s.wr ln .A x).wr ln .B y).rd ln .N = s.rd ln .N := by simp [State.rd_wr_other_reg]
  have hM : ((s.wr ln .A x).wr ln .B y).rd ln .M = s.rd ln .M := by simp [State.rd_wr_other_reg]
  by_cases h0 : l = 0
  · refine (fibProgress_fin (by simp [phaseAt, h0])).2 ⟨h0, ?_⟩
    simpa [hA, hB, hN, hM, h0] using hxy
  · refine (fibProgress_asc (by simp [phaseAt, h0])).2 ⟨Nat.pos_of_ne_zero h0, ?_, ?_, trivial⟩
    · simpa [hN] using hl
    · simpa [hA, hB, hN, hM] using hxy

/-- The base pair is P(0), the pair of the index halved `bitlen N` times (rule R188). -/
theorem ahead_base (hc : Capacity s) (hm : s.rd ln .M ≠ 0) (hp : s.phase = .base) (h : FibProgress ln s) :
    Ahead ln s (moveTo (phaseAt s.lvl) s.lvl 0 ((s.wr ln .A 0).wr ln .B (1 % s.rd ln .M))) := by
  have hl := (fibProgress_base hp).1 h
  have hzero : s.rd ln .N / 2 ^ s.lvl = 0 := (div_two_pow_eq_zero_iff _ _).2 hl.ge
  refine ⟨fibProgress_loadPair hc hm hl.le ?_, ?_⟩
  · rw [hzero, fibPair_eq hm, fibMod, fibMod, Nat.fib_zero, Nat.zero_mod]
    rfl
  · rw [stepsLeft_phaseAt]
    simp [stepsLeft, hp]

/-- Before micro-step 6 `C` and `D` are the pair of the doubled index (rules R180, R190). -/
theorem levelSoFar_select {k2 : Nat} (hu : s.upc = 6) (h : LevelSoFar ln k2 s) :
    s.rd ln .C = fibMod (2 * k2) (s.rd ln .M) ∧ s.rd ln .D = fibMod (2 * k2 + 1) (s.rd ln .M) := by
  simpa only [LevelSoFar, hu] using h

/-- One halving less: the index of the level above is twice this level's and the parity bit (rule R180). -/
theorem div_two_pow_pred {n l : Nat} (hl : 1 ≤ l) : n / 2 ^ (l - 1) = 2 * (n / 2 ^ l) + (n.testBit (l - 1)).toNat := by
  obtain ⟨k, rfl⟩ : ∃ k, l = k + 1 := ⟨l - 1, by omega⟩
  have hbit : n.testBit k = (n / 2 ^ k).testBit 0 := by rw [Nat.testBit_div_two_pow, Nat.zero_add]
  rw [Nat.add_sub_cancel, hbit, pow_succ, ← Nat.div_div_eq_div_mul, two_mul_half_add_bit]

/-- Micro-step 6 loads the pair of the level above: P(2·k2), or P(2·k2 + 1) at an odd index (rule R190). -/
theorem ahead_select {x y : Nat} (hc : Capacity s) (hm : s.rd ln .M ≠ 0) (hp : s.phase = .asc) (hu : s.upc = 6)
    (h : FibProgress ln s)
    (hxy : (x, y) = if (s.rd ln .N).testBit (s.lvl - 1) then (s.rd ln .D, (s.rd ln .C + s.rd ln .D) % s.rd ln .M)
      else (s.rd ln .C, s.rd ln .D)) :
    Ahead ln s (moveTo (phaseAt (s.lvl - 1)) (s.lvl - 1) 0 ((s.wr ln .A x).wr ln .B y)) := by
  obtain ⟨h1, hle, -, hlevel⟩ := (fibProgress_asc hp).1 h
  obtain ⟨hC, hD⟩ := levelSoFar_select hu hlevel
  refine ⟨fibProgress_loadPair hc hm ((Nat.sub_le _ 1).trans hle) ?_, ?_⟩
  · rw [hxy, fibPair_eq hm, div_two_pow_pred h1, hC, hD, fibMod_add_two]
    cases (s.rd ln .N).testBit (s.lvl - 1) <;> rfl
  · rw [stepsLeft_phaseAt]
    simp only [stepsLeft, hp, hu]
    omega

/-- A row of the micro-program takes a level one micro-step on (rule R189); the values are those of rule R180. -/
theorem levelSoFar_row {k2 v : Nat} {m : MicroOp} (hc : Capacity s) (hm : s.rd ln .M ≠ 0)
    (hpair : (s.rd ln .A, s.rd ln .B) = fibPair (s.rd ln .M) k2) (h : LevelSoFar ln k2 s)
    (hrow : microProgram s.upc = some m) (hv : mmw m.op (s.rd ln m.a) (s.rd ln m.b) (s.rd ln .M) = .value v) :
    LevelSoFar ln k2 (moveTo .asc s.lvl (s.upc + 1) (s.wr ln m.dst v)) := by
  have hfit : v < 2 ^ s.XW ln := by
    obtain ⟨r, hr, hlt⟩ := mmw_value_lt (s.rd ln m.a) (s.rd ln m.b) (microProgram_row hrow).1 (Nat.pos_of_ne_zero hm)
    obtain rfl : v = r := BeAnswer.value.inj (hv.symm.trans hr)
    exact lt_XW_of_lt_modulus hc hlt
  rw [fibPair_eq hm, Prod.mk.injEq] at hpair
  obtain ⟨hA, hB⟩ := hpair
  have hreduced : s.rd ln .A % s.rd ln .M = s.rd ln .A := by rw [hA, fibMod, Nat.mod_mod]
  have hsub : mmwSubmod (2 * s.rd ln .B % s.rd ln .M) (s.rd ln .A) (s.rd ln .M) =
      (2 * s.rd ln .B + (s.rd ln .M - s.rd ln .A)) % s.rd ln .M := by
    rw [mmwSubmod_eq _ _ hm, hreduced, Nat.mod_add_mod]
  have hC : s.rd ln .A * ((2 * s.rd ln .B + (s.rd ln .M - s.rd ln .A)) % s.rd ln .M) % s.rd ln .M =
      fibMod (2 * k2) (s.rd ln .M) := by
    rw [hA, hB]
    exact fibMod_two_mul k2 hm
  have hD : (s.rd ln .A * s.rd ln .A % s.rd ln .M + s.rd ln .B * s.rd ln .B % s.rd ln .M) % s.rd ln .M =
      fibMod (2 * k2 + 1) (s.rd ln .M) := by
    rw [hA, hB]
    exact fibMod_two_mul_add_one k2 _
  unfold microProgram at hrow
  split at hrow <;> rename_i hu <;> cases hrow <;> cases hv
  all_goals
    simp only [LevelSoFar, hu] at h
    simp only [LevelSoFar, hu, moveTo_upc, moveTo_rd, State.rd_wr_fits hfit, State.rd_wr_other_reg, ne_eq, reduceCtorEq,
      not_false_eq_true]
  · rfl
  · rw [h]
    exact hsub
  · rw [h]
    exact hC
  · exact ⟨h, rfl⟩
  · obtain ⟨hC', hT⟩ := h
    exact ⟨hC', hT, rfl⟩
  · obtain ⟨hC', hT, hD'⟩ := h
    rw [hT, hD']
    exact ⟨hC', hD⟩

/-- A row of the micro-program leaves the level and its pair, and is one micro-step less (rule R189). -/
theorem ahead_row {m : MicroOp} {v : Nat} (hc : Capacity s) (hm : s.rd ln .M ≠ 0) (hp : s.phase = .asc)
    (h : FibProgress ln s) (hrow : microProgram s.upc = some m)
    (hv : mmw m.op (s.rd ln m.a) (s.rd ln m.b) (s.rd ln .M) = .value v) :
    Ahead ln s (moveTo .asc s.lvl (s.upc + 1) (s.wr ln m.dst v)) := by
  obtain ⟨h1, hle, hpair, hlevel⟩ := (fibProgress_asc hp).1 h
  obtain ⟨-, hu, hdst, -⟩ := microProgram_row hrow
  have hu' : (s.upc + 1).val = s.upc.val + 1 := Fin.val_add_one_of_lt (Fin.lt_def.2 hu)
  have keep {r : Reg} (hr : r ≠ .T ∧ r ≠ .C ∧ r ≠ .D) : (s.wr ln m.dst v).rd ln r = s.rd ln r :=
    State.rd_wr_other_reg s ln v (by rcases hdst with e | e | e <;> simp [e, hr])
  refine ⟨(fibProgress_asc rfl).2 ⟨h1, ?_, ?_, ?_⟩, ?_⟩
  · simpa [keep] using hle
  · simpa [keep] using hpair
  · simpa [keep] using levelSoFar_row hc hm hpair hlevel hrow hv
  · simp only [stepsLeft, hp, moveTo_phase, moveTo_lvl, moveTo_upc, hu']
    omega

/-- A micro-step of a running `FIB` before `FIN` goes on to the next one (rules R187 to R191). -/
theorem fibRun_ahead (h : FibRun ln s) (hc : Capacity s) (hfin : s.phase ≠ .fin) :
    ∃ t, exec (fibOf ln) s = .next t ∧ Ahead ln s t := by
  have hm := h.modulus
  have hpr := h.progress
  cases hp : s.phase
  case idle => exact absurd hp (fibRun_not_idle h)
  case exec => exact absurd hp (fibRun_not_exec h)
  case fin => exact absurd hp hfin
  case desc =>
    obtain ⟨hidx, -⟩ := (fibProgress_desc hp).1 hpr
    by_cases hk : s.rd ln .K = 0
    · exact ⟨_, exec_turn hp hk, ahead_turn hp hk hpr⟩
    · have hlt := (lt_bitlen_of_div_ne_zero (hidx ▸ hk)).trans_le (bitlen_le_XW hc ln .N)
      exact ⟨_, exec_halve hp hk hlt, ahead_halve hc hp hk hpr⟩
  case base => exact ⟨_, exec_base hp hm, ahead_base hc hm hp hpr⟩
  case asc =>
    obtain ⟨h1, hle, hpair, hlevel⟩ := (fibProgress_asc hp).1 hpr
    have hlX := hle.trans (bitlen_le_XW hc ln .N)
    cases hrow : microProgram s.upc with
    | some m =>
      obtain ⟨v, hv, -⟩ := mmw_value_lt (s.rd ln m.a) (s.rd ln m.b) (microProgram_row hrow).1 (Nat.pos_of_ne_zero hm)
      exact ⟨_, exec_row hp hm hrow hv, ahead_row hc hm hp hpr hrow hv⟩
    | none =>
      have hu := microProgram_none hrow
      cases hb : (s.rd ln .N).testBit (s.lvl - 1) with
      | false => exact ⟨_, exec_even hp hu h1 hlX hb, ahead_select hc hm hp hu hpr (by simp [hb])⟩
      | true => exact ⟨_, exec_odd hp hu h1 hlX hm hb, ahead_select hc hm hp hu hpr (by simp [hb])⟩

/-- What a cycle with `n` micro-steps in it brings a running `FIB` to: `n` less to do, the operands as they were, and either
still running with `R` untouched, or completed with F(N) mod M in `R` (rules R191 to R195). -/
structure Advanced (ln : Lane) (n : Nat) (s t : State) : Prop where
  capacity : Capacity t
  schedule : t.schedule = s.schedule
  index : t.rd ln .N = s.rd ln .N
  modulus : t.rd ln .M = s.rd ln .M
  left : stepsLeft ln s = stepsLeft ln t + n
  outcome : (FibRun ln t ∧ t.rd ln .R = s.rd ln .R) ∨
    (t.phase = .idle ∧ t.done = true ∧ t.rd ln .R = fibMod (s.rd ln .N) (s.rd ln .M))

/-- In `FIN` the pair stands at P(N), so what is written is F(N) mod M (rules R191, R192). -/
theorem rd_complete_of_fibRun (h : FibRun ln s) (hc : Capacity s) (hp : s.phase = .fin) :
    (complete (s.wr ln .R (s.rd ln .A))).rd ln .R = fibMod (s.rd ln .N) (s.rd ln .M) := by
  obtain ⟨-, hpair⟩ := (fibProgress_fin hp).1 h.progress
  rw [fibPair_eq h.modulus, Prod.mk.injEq] at hpair
  rw [complete_rd, State.rd_wr_fits (rd_lt hc ln .A)]
  exact hpair.1

/-- A micro-step of a running `FIB` takes effect and is one of those it still needed. -/
theorem fibRun_exec (h : FibRun ln s) (hc : Capacity s) : ∃ t, exec (fibOf ln) s = .next t ∧ Advanced ln 1 s t := by
  by_cases hp : s.phase = .fin
  · have hother {r : Reg} (hr : r ≠ .R) : (complete (s.wr ln .R (s.rd ln .A))).rd ln r = s.rd ln r :=
      State.rd_wr_other_reg s ln _ hr
    exact ⟨_, exec_fin hp, capacity_complete (capacity_wr hc ..), by simp, hother (by decide), hother (by decide),
      by simp [stepsLeft, hp], .inr ⟨rfl, rfl, rd_complete_of_fibRun h hc hp⟩⟩
  · obtain ⟨t, ht, hpr, hleft⟩ := fibRun_ahead h hc hp
    have hstep : FibStep ln s t := fibCommand_eq_next (fibRun_not_idle h) (exec_fibOf ln s ▸ ht)
    have hframe := FibStep.frame_working hstep hp
    have visible {r : Reg} (hr : ¬Working r) : t.rd ln r = s.rd ln r := hframe.regs ln r (.inr hr)
    have hM : t.rd ln .M = s.rd ln .M := visible (by simp [Working, indexOfReg])
    have hcmd : t.cmd = s.cmd := ((exec_eq_next ht).record (fibRun_not_idle h)).2.2
    exact ⟨t, ht, hstep.capacity hc, hframe.schedule, visible (by simp [Working, indexOfReg]), hM, hleft,
      .inl ⟨⟨by rw [Latched, hcmd]; exact h.latched, hM ▸ h.modulus, hpr⟩, visible (by simp [Working, indexOfReg])⟩⟩

/-- A cycle without a reset takes a running `FIB` on, whatever access the host makes in it (rules R194, R224). -/
theorem fibRun_runTurn {n : Turn} (h : FibRun ln s) (hc : Capacity s) (hr : n.rst = false) :
    ∃ t, runTurn n s = .next t ∧ Advanced ln n.tick.toNat s t := by
  obtain ⟨u, hu, hrun⟩ := runTurn_busy (t := n) (s.busy_eq_true_iff.2 (fibRun_not_idle h)) hr
  have hcu : Capacity u := capacity_congr hu.L hu.b hc
  have hfu : FibRun ln u := fibRun_congr h hu.phase hu.lvl hu.upc hu.cmd hu.f hu.b
  have hlu : stepsLeft ln u = stepsLeft ln s := stepsLeft_congr (hu.rd _ _) hu.phase hu.lvl hu.upc
  rw [hrun]
  cases n.tick with
  | false => exact ⟨u, rfl, hcu, hu.sched, hu.rd _ _, hu.rd _ _, hlu.symm, .inl ⟨hfu, hu.rd _ _⟩⟩
  | true =>
    obtain ⟨t, ht, hcap, hs, hN, hM, hleft, hout⟩ := fibRun_exec hfu hcu
    rw [hu.rd, hu.rd, hu.rd] at hout
    exact ⟨t, by simpa [microStep_latched (fibRun_not_idle hfu) hfu.latched] using ht, hcap, hs.trans hu.sched,
      hN.trans (hu.rd _ _), hM.trans (hu.rd _ _), hlu ▸ hleft, hout⟩

/-- A step takes the next turn off the schedule, if there is one, and runs it from an otherwise unchanged state. -/
theorem nextTurn_snd (s : State) : ∃ ts, (nextTurn s).2 = { s with schedule := ts } := by
  unfold nextTurn
  split
  · exact ⟨_, rfl⟩
  · exact ⟨s.schedule, rfl⟩

theorem fibRun_withSchedule (h : FibRun ln s) (ts : List Turn) : FibRun ln { s with schedule := ts } :=
  fibRun_congr h rfl rfl rfl rfl rfl rfl

theorem capacity_withSchedule (hc : Capacity s) (ts : List Turn) : Capacity { s with schedule := ts } :=
  capacity_congr (s := s) rfl rfl hc

theorem stepsLeft_idle (ln : Lane) (hp : s.phase = .idle) : stepsLeft ln s = 0 := by simp [stepsLeft, hp]

/-- A running `FIB` needs one micro-step at least. -/
theorem fibRun_stepsLeft_pos (h : FibRun ln s) : 0 < stepsLeft ln s := by
  cases hp : s.phase <;> simp only [stepsLeft, hp]
  case idle => exact absurd hp (fibRun_not_idle h)
  all_goals omega

theorem ticks_cons (n : Turn) (ts : List Turn) : ticks (n :: ts) = ticks ts + n.tick.toNat := by
  cases h : n.tick <;> simp [ticks, h]

/-- Over a schedule without a reset whose last turn brings the last micro-step, a running `FIB` completes with F(N) mod M
(rule R194). -/
theorem fibRun_run {ts rest : List Turn} {last : Turn} (h : FibRun ln s) (hc : Capacity s)
    (hs : s.schedule = ts ++ last :: rest) (hr : NoReset (ts ++ [last])) (hlast : last.tick = true)
    (hticks : ticks (ts ++ [last]) = stepsLeft ln s) :
    ∃ t, core.run (ts.length + 1) s = .next t ∧
      t.rd ln .R = fibMod (s.rd ln .N) (s.rd ln .M) ∧ t.done = true ∧ t.phase = .idle := by
  induction ts generalizing s with
  | nil =>
    obtain ⟨t, ht, ha⟩ := fibRun_runTurn (fibRun_withSchedule h rest) (capacity_withSchedule hc rest) (hr last (by simp))
    have hleft : stepsLeft ln s = stepsLeft ln t + last.tick.toNat := ha.left
    have hdone : ¬FibRun ln t := fun hrun => by
      have := fibRun_stepsLeft_pos hrun
      have hone : ticks [last] = 1 := by simp [ticks, hlast]
      rw [List.nil_append, hone, hleft, hlast, Bool.toNat_true] at hticks
      omega
    obtain ⟨hrun, -⟩ | ⟨hp, hd, hR⟩ := ha.outcome
    · exact absurd hrun hdone
    · exact ⟨t, core_run_succ ((step_eq_runTurn hs).trans ht), hR, hd, hp⟩
  | cons n ts ih =>
    obtain ⟨hn, hts⟩ := List.forall_mem_cons.1 hr
    obtain ⟨t, ht, ha⟩ := fibRun_runTurn (fibRun_withSchedule h (ts ++ last :: rest)) (capacity_withSchedule hc _) hn
    have hleft : ticks (ts ++ [last]) = stepsLeft ln t := by
      have : stepsLeft ln s = stepsLeft ln t + n.tick.toNat := ha.left
      rw [List.cons_append, ticks_cons, this] at hticks
      omega
    have hlater : t.phase ≠ .idle := fun hp => by
      have hone : 1 ≤ ticks (ts ++ [last]) := by simp [ticks, hlast]
      rw [hleft, stepsLeft_idle ln hp] at hone
      omega
    obtain ⟨hrun, -⟩ | ⟨hp, -⟩ := ha.outcome
    · obtain ⟨u, hu, hR, hd, hp⟩ := ih hrun ha.capacity ha.schedule hts hleft
      rw [ha.index, ha.modulus] at hR
      exact ⟨u, (core_run_succ ((step_eq_runTurn hs).trans ht)).trans hu, hR, hd, hp⟩
    · exact absurd hp hlater

/-- The accept of a `FIB` puts it at the start of `DESC`, with every micro-step to do (rules R186, R193). -/
theorem fibRun_accept (hc : Capacity s) (hm : s.rd ln .M ≠ 0) :
    FibRun ln (moveTo .desc 0 0 ((latchCommand (fibOf ln) s).wr ln .K (s.rd ln .N))) := by
  have hN : s.rd ln .N < 2 ^ (latchCommand (fibOf ln) s).XW ln := rd_lt hc ln .N
  refine ⟨by simp [Latched, decode_encode], ?_, (fibProgress_desc rfl).2 ⟨?_, Nat.zero_le _⟩⟩
  · simpa [State.rd_wr_other_reg] using hm
  · simp [State.rd_wr_fits hN, State.rd_wr_other_reg]

end

/-! #### From accept to result (rules R186, R191 to R195) -/

/-- Settles O29: the accept starts a run, and `DESC` at level 0 has all the micro-steps left. -/
theorem acceptStartsAFibRun : Obligations.AcceptStartsAFibRun := by
  intro ln s hp hm hc
  have keep {r : Reg} (hr : r ≠ .K) :
      (moveTo .desc 0 0 ((latchCommand (fibOf ln) s).wr ln .K (s.rd ln .N))).rd ln r = s.rd ln r :=
    State.rd_wr_other_reg (latchCommand (fibOf ln) s) ln _ hr
  refine ⟨_, exec_fibOf_idle hp hm, fibRun_accept hc hm, capacity_moveTo (capacity_wr (capacity_latchCommand hc _) ..) ..,
    ?_, keep (by decide), keep (by decide), keep (by decide)⟩
  simp only [stepsLeft, moveTo_phase, moveTo_lvl, keep (show Reg.N ≠ .K by decide)]
  omega

/-- Settles O26: the result of either lane fits its register, and in a running `FIB` the pair stands at P(N). -/
theorem fibFinWritesTheResult : Obligations.FibFinWritesTheResult := by
  refine ⟨fun s hp => ⟨?_, fun hc => ?_⟩, fun ln s hp hc h => ?_⟩
  · have hA : BitVec.ofNat 64 (s.rd .f .A) = s.f.A := by simp
    exact (exec_fin (ln := .f) hp).trans (by rw [State.wr, hA]; rfl)
  · have hA : s.rd .b .A % 2 ^ s.XW .b = s.b.A := Nat.mod_eq_of_lt (hc.fits .A)
    exact (exec_fin (ln := .b) hp).trans (by rw [State.wr, hA]; rfl)
  · exact ⟨_, exec_fin hp, rd_complete_of_fibRun h hc hp, rfl, rfl⟩

/-- Settles O31: the micro-step has one outcome, and it is one less. -/
theorem eachMicroStepLeavesOneLess : Obligations.EachMicroStepLeavesOneLess := by
  intro ln s t hc h ht
  obtain ⟨t', ht', ha⟩ := fibRun_exec h hc
  obtain rfl : t' = t := Host.Outcome.next.inj (ht'.symm.trans ht)
  exact ha.left

/-- Settles O30: a step runs its turn from the state as it is, the schedule apart. -/
theorem everyStepKeepsTheLevelInvariant : Obligations.EveryStepKeepsTheLevelInvariant := by
  intro ln s hc h hr
  obtain ⟨ts, hs⟩ := nextTurn_snd s
  obtain ⟨t, ht, ha⟩ := fibRun_runTurn (fibRun_withSchedule h ts) (capacity_withSchedule hc ts) hr
  exact ⟨t, by rw [step, hs, ht], ha.capacity, ha.index, ha.modulus, ha.outcome⟩

/-- Settles O32: the accept starts a run (O29), and the run completes over any such schedule. -/
theorem fibComputesFibonacciUnderEveryInterleaving : Obligations.FibComputesFibonacciUnderEveryInterleaving := by
  intro ln s s₁ ts last rest hp hm hc hs₁ hr hlast hticks
  obtain ⟨t, ht, hrun, hct, hleft, hN, hM, -⟩ := acceptStartsAFibRun ln s hp hm hc
  obtain rfl : t = s₁ := Host.Outcome.next.inj (ht.symm.trans hs₁)
  rw [← hN, ← hM]
  exact fibRun_run (fibRun_withSchedule hrun _) (capacity_withSchedule hct _) rfl hr hlast (hticks.trans hleft.symm)

/-! #### No state that meets the invariants is stuck (rules R195, R224) -/

section
variable {i : Instr} {s : State}

/-- The micro-step of a primitive command has an answer: where it reduces, its modulus is not 0 (rules R98, R223). -/
theorem exec_goes_on_of_execInv (hp : s.phase = .exec) (h : ExecInv i s) : ∃ t, exec i s = .next t := by
  obtain ⟨-, e⟩ | ⟨-, -, op, -, hred, e⟩ | ⟨hf, -⟩ := exec_forms i
  · exact ⟨complete s, by rw [e, execNop, hp]⟩
  · obtain ⟨ans, hans⟩ := (backend_eq_some_iff i.lane op (s.rd i.lane .X) (s.rd i.lane .Y) (s.rd i.lane .M)).2
      fun ⟨hr, h0⟩ => h.modulus (hred ▸ hr) h0
    exact ⟨complete (routeAnswer i.lane ans s), by simp only [e, primitiveCommand, hp, execMicroStep, hans]⟩
  · simp [h.primitive] at hf

/-- A core that meets the invariants takes a micro-step, or is idle and has none to take. -/
theorem microStep_goes_on (h : Inv s) : ∃ t, microStep s = .next t := by
  obtain ⟨i, hi⟩ := h.cmd_legal
  have hphase := phaseInv_of_inv h hi
  by_cases hidle : s.phase = .idle
  · exact ⟨s, by simp [microStep, s.busy_eq_false_iff.2 hidle]⟩
  by_cases hexec : s.phase = .exec
  · rw [microStep_latched hidle hi]
    exact exec_goes_on_of_execInv hexec ((phaseInv_exec hexec).1 hphase)
  · have hf : FibInFlight i s := ⟨h.capacity, (hphase.fibGuard hidle hexec).isFib, hi, hphase, hidle⟩
    obtain ⟨t, ht, -⟩ := hf.microStep
    exact ⟨t, ht⟩

theorem busEdge_goes_on (p : Pins) (s : State) : ∃ t, busEdge p s = .next t := by
  unfold busEdge
  split
  · exact busWrite_goes_on ..
  · exact ⟨s, rfl⟩

/-- A clock edge goes on: the access does, and keeps the invariants the micro-step after it needs (rule R224). -/
theorem clockEdge_goes_on (h : Inv s) (p : Pins) (tick : Bool) : ∃ t, clockEdge p tick s = .next t := by
  obtain ⟨u, hu⟩ := busEdge_goes_on p s
  obtain ⟨-, e⟩ | ⟨-, -, e⟩ | ⟨-, -, -, e⟩ := clockEdge_cases p tick s
  · exact ⟨_, e⟩
  · exact ⟨u, e.trans hu⟩
  · obtain ⟨t, ht⟩ := microStep_goes_on (inv_busEdge h hu)
    exact ⟨t, by rw [e, hu, andThen_next, ht]⟩

end

/-- Settles O55: the host's side of the cycle keeps the invariants, and the clock edge goes on from there. -/
theorem noStepStops : Obligations.NoStepStops := fun _ h =>
  ⟨clockEdge_goes_on (inv_hostAfter (inv_nextTurn h) _) _ _, microStep_goes_on h, fun hb => by simp [microStep, hb]⟩

end Sys2Proof.Proofs.FibDoubler

/-! ### Proofs: the family of the host and the system -/

namespace Sys2Proof.Proofs.HostAndSystem

open Sys2Proof.Machine Sys2Proof.Safety Sys2Proof.Proofs.StateFamily Sys2Proof.Proofs.Memory Sys2Proof.Proofs.Encoding
  Sys2Proof.Proofs.ModArith

/-! #### Turns of a busy core and turns without an access (rules R224, R233) -/

/-- A busy core's clock edge with a write: the write touches neither `CMD` nor `PHASE` (rule R37), so the micro-step after it
is the one that was enabled before it. -/
theorem clockEdge_write_busy {s : State} {i : Instr} (a : Addr) (v : Word) (hp : s.phase ≠ .idle)
    (hi : decode s.cmd = .ok i) :
    clockEdge (accessPins false (.write a v)) true s = andThen (busWrite a v s) (exec i) := by
  have hb := s.busy_eq_true_iff.2 hp
  obtain ⟨t, ht, hcore⟩ := busWrite_busy a v hb
  have hmicro : microStep t = exec i t := microStep_latched (hcore.phase ▸ hp) (hcore.cmd ▸ hi)
  have hedge : busEdge (accessPins false (.write a v)) s = busWrite a v s := rfl
  obtain ⟨hr, -⟩ | ⟨-, hn, -⟩ | ⟨-, -, -, e⟩ := clockEdge_cases (accessPins false (.write a v)) true s
  · cases hr
  · exact absurd ⟨rfl, hb⟩ hn
  · rw [e, hedge, ht, andThen_next, andThen_next, hmicro]

/-- Settles O7: the turn is a clock edge with the write, and the latched command outlives the write. -/
theorem sameCycleWriteComesBeforeMicroStep : Obligations.SameCycleWriteComesBeforeMicroStep := by
  intro s a v i ts rest hp hs hprog hi
  calc step s = runTurn _ { s with schedule := ts } := step_eq_runTurn hs
    _ = clockEdge (accessPins false (.write a v)) true { s with schedule := ts, program := rest } := runTurn_write rfl hprog
    _ = andThen (busWrite a v { s with schedule := ts, program := rest }) (exec i) := clockEdge_write_busy a v hp hi

/-- A host with no access left presents none, whatever the turn. -/
theorem runTurn_no_program {s : State} (n : Turn) (hp : s.program = []) :
    runTurn n s = runTurn { n with host := false } s := by
  simp [runTurn, turnPins, hostAfter, presented, hp]

/-- With an empty schedule a step is the turn of the model's choice (log entry 4). -/
theorem step_no_schedule {s : State} (hs : s.schedule = []) : step s = runTurn (defaultTurn s) s := by
  simp [step, nextTurn, hs]

/-- Settles O8: the default turn of a busy core is a quiet micro-step, that of an idle one leaves the cycle to a host that
has nothing to present. -/
theorem runGoesOnWithMicroStepsAlone : Obligations.RunGoesOnWithMicroStepsAlone := by
  intro s hs
  rw [step_no_schedule hs]
  refine ⟨fun i hp hi => ?_, fun hp hprog => ?_⟩
  · have hb := s.busy_eq_true_iff.2 hp
    rw [runTurn_quiet s rfl (by simp [defaultTurn, hb]), defaultTurn, if_pos hb, microStep_latched hp hi]
  · have hb : ¬s.busy = true := by simp [State.busy, hp]
    rw [runTurn_no_program _ hprog, runTurn_quiet s rfl rfl, defaultTurn, if_neg hb]

/-! #### The words the bus reads (rules R28, R31, R32, R225) -/

/-- A limb as a number (rule R62). -/
theorem limb_toNat (v i : Nat) : (limb v i).toNat = v / 2 ^ (64 * i) % 2 ^ 64 := BitVec.toNat_ofNat _ _

/-- A word is its own limb 0. -/
theorem limb_zero_of_word (x : Word) : limb x.toNat 0 = x := by simp [limb]

/-- Fields set side by side, as a number. -/
theorem append_toNat {m n : Nat} (x : BitVec m) (y : BitVec n) : (x ++ y).toNat = x.toNat * 2 ^ n + y.toNat := by
  rw [BitVec.toNat_append, ← Nat.shiftLeft_add_eq_or_of_lt y.isLt, Nat.shiftLeft_eq]

theorem idWord_toNat {s : State} (hL : s.L ≤ 256) : (idWord s).toNat = 0x4646494200010000 + s.L := by
  have hmod : s.L % 2 ^ 16 = s.L := Nat.mod_eq_of_lt (by omega)
  simp only [idWord, append_toNat, BitVec.toNat_ofNat, hmod]
  omega

theorem ctrlWord_toNat (s : State) : (ctrlWord s).toNat = s.ieDone.toNat + 2 * s.ieErr.toNat := by
  simp only [ctrlWord, append_toNat, BitVec.toNat_ofBool, BitVec.toNat_ofNat]
  omega

theorem statusWord_toNat (s : State) :
    (statusWord s).toNat = s.busy.toNat + 2 * s.done.toNat + 4 * s.err.toNat + 16 * s.errcode.toNat +
      256 * s.gt.toNat + 512 * s.eq.toNat + 1024 * s.ev.toNat := by
  simp only [statusWord, append_toNat, BitVec.toNat_ofBool, BitVec.toNat_ofNat]
  omega

section
variable {s : State} {a : Addr} {r : Reg} {i j : Nat}

/-- A lane-F register reads as it is. -/
theorem busRead_laneF (hj : j < 5) (ha : a.toNat = 16 + j) (hr : regOfIndex j = some r) : busRead s a = s.f.get r := by
  rw [busRead, targetOf_laneF hj ha hr, readTarget, State.rd_f, limb_zero_of_word]

/-- A lane-B address reads the limb it names. -/
theorem busRead_laneB (hc : Capacity s) (hi : i < s.L) (ha : a.toNat = 256 * (j + 1) + i) (hr : regOfIndex j = some r) :
    (busRead s a).toNat = s.b.get r / 2 ^ (64 * i) % 2 ^ 64 := by
  rw [busRead, targetOf_laneB hi (hi.trans_le hc.le_256) ha hr, readTarget, State.rd_b, limb_toNat]

end

/-- Settles O39: the control words field by field, then the registers of each lane by their numbers. -/
theorem busReadReturnsTheMappedWord : Obligations.BusReadReturnsTheMappedWord := by
  intro s hc
  refine ⟨idWord_toNat hc.le_256, ctrlWord_toNat s, statusWord_toNat s, rfl, ?_, ?_, ?_, ?_, ?_, fun i hi a => ?_,
    fun a ha => ?_⟩
  · exact busRead_laneF (j := 0) (by decide) rfl rfl
  · exact busRead_laneF (j := 1) (by decide) rfl rfl
  · exact busRead_laneF (j := 2) (by decide) rfl rfl
  · exact busRead_laneF (j := 3) (by decide) rfl rfl
  · exact busRead_laneF (j := 4) (by decide) rfl rfl
  · exact ⟨fun h => busRead_laneB (j := 0) hc hi h rfl, fun h => busRead_laneB (j := 1) hc hi h rfl,
      fun h => busRead_laneB (j := 2) hc hi h rfl, fun h => busRead_laneB (j := 3) hc hi h rfl,
      fun h => busRead_laneB (j := 4) hc hi h rfl⟩
  · rw [busRead, targetOf_reserved ha, readTarget]

/-! #### Operand writes (rules R227, R228) -/

/-- Settles O41: an operand address names a word the host may write, and a busy core drops the write. -/
theorem operandWriteWhileBusyIsDropped : Obligations.OperandWriteWhileBusyIsDropped := by
  intro s a v hp ha
  obtain ⟨ln, r, i, ht, hw⟩ := targetOf_operand ha
  rw [busWrite, ht, writeTarget, if_pos hw, writeOperand, if_pos (s.busy_eq_true_iff.2 hp), raise_eq_withError]
  rfl

section
variable {s : State} {a : Addr} {r : Reg} {i j : Nat} (v : Word)

/-- A lane-F operand is one word, and the write replaces it whole. -/
theorem busWrite_laneF_idle (hp : s.phase = .idle) (hj : j < 5) (ha : a.toNat = 16 + j) (hr : regOfIndex j = some r)
    (hw : r.hostWritable = true) : busWrite a v s = .next { s with f := s.f.set r v } := by
  have hv : BitVec.ofNat 64 (setLimb (s.rd .f r) 0 v) = v := by simpa [limb] using limb_setLimb_same (s.rd .f r) 0 v
  rw [busWrite_operand_idle v hp hw (targetOf_laneF hj ha hr), State.wr, hv]

/-- A lane-B operand write replaces one limb, and the new value fits the register. -/
theorem busWrite_laneB_idle (hp : s.phase = .idle) (hc : Capacity s) (hi : i < s.L) (ha : a.toNat = 256 * (j + 1) + i)
    (hr : regOfIndex j = some r) (hw : r.hostWritable = true) :
    busWrite a v s = .next { s with
      b := s.b.set r
        (s.b.get r - s.b.get r / 2 ^ (64 * i) % 2 ^ 64 * 2 ^ (64 * i) + v.toNat * 2 ^ (64 * i)) } := by
  have hfits : setLimb (s.rd .b r) i v % 2 ^ s.XW .b = setLimb (s.rd .b r) i v :=
    Nat.mod_eq_of_lt (setLimb_lt v (hc.fits r) hi)
  rw [busWrite_operand_idle v hp hw (targetOf_laneB hi (hi.trans_le hc.le_256) ha hr), State.wr, hfits, setLimb, limb_toNat,
    State.rd_b]

end

/-- Settles O42: the operands of each lane by their numbers. -/
theorem operandWriteWhileIdleReplacesTheWord : Obligations.OperandWriteWhileIdleReplacesTheWord := by
  intro s v hp hc
  refine ⟨?_, ?_, ?_, ?_, fun i a hi => ⟨fun h => ?_, fun h => ?_, fun h => ?_, fun h => ?_⟩⟩
  · exact busWrite_laneF_idle (j := 0) v hp (by decide) rfl rfl rfl
  · exact busWrite_laneF_idle (j := 1) v hp (by decide) rfl rfl rfl
  · exact busWrite_laneF_idle (j := 2) v hp (by decide) rfl rfl rfl
  · exact busWrite_laneF_idle (j := 3) v hp (by decide) rfl rfl rfl
  · exact busWrite_laneB_idle (j := 0) v hp hc hi h rfl rfl
  · exact busWrite_laneB_idle (j := 1) v hp hc hi h rfl rfl
  · exact busWrite_laneB_idle (j := 2) v hp hc hi h rfl rfl
  · exact busWrite_laneB_idle (j := 3) v hp hc hi h rfl rfl

/-! #### Writes to `STATUS` and `CTRL` (rules R229, R230) -/

/-- A bit of a word, as a digit of its number. -/
theorem getLsbD_eq_decide (v : Word) (i : Nat) : v.getLsbD i = decide (v.toNat / 2 ^ i % 2 = 1) :=
  Nat.testBit_eq_decide_div_mod_eq

/-- A write to `STATUS`, field by field: bit 1 clears `DONE`, bit 2 the record of an error. -/
theorem writeStatus_eq (v : Word) (s : State) :
    writeStatus v s = { s with
      done := if v.getLsbD 1 then false else s.done
      err := if v.getLsbD 2 then false else s.err
      errcode := if v.getLsbD 2 then 0 else s.errcode } := by
  unfold writeStatus ackErr ackDone
  cases v.getLsbD 1 <;> cases v.getLsbD 2 <;> rfl

/-- Settles O44: the bits of the word written, as digits of its number. -/
theorem statusAndCtrlWritesActBitByBit : Obligations.StatusAndCtrlWritesActBitByBit := by
  intro s v
  have hstatus : busWrite 0x002 v s = .next (writeStatus v s) := rfl
  have hctrl : busWrite 0x001 v s = .next (writeCtrl v s) := rfl
  simp only [hstatus, writeStatus_eq, hctrl, writeCtrl, getLsbD_eq_decide, decide_eq_true_iff, Nat.reducePow, Nat.div_one,
    and_self]

/-! #### Writes to `CMD` (rule R221) -/

/-- An illegal word written to `CMD` of an idle core is refused (rule R221, case 2). -/
theorem busWrite_cmd_illegal {s : State} {w : Word} {e : DecodeError} (hp : s.phase = .idle) (he : decode w = .error e) :
    busWrite cmdAddr w s = .next (withError 2 { s with done := false }) := by
  have ht : targetOf s.L cmdAddr = .cmd := rfl
  obtain ⟨hb, -⟩ | ⟨-, -, h⟩ | ⟨-, i, hi, -⟩ := issueCommand_cases w s
  · exact absurd hp (s.busy_eq_true_iff.1 hb)
  · rw [busWrite, ht, writeTarget, h, refuseCommand, raise_eq_withError]
    rfl
  · rw [he] at hi
    cases hi

/-- The codes of the reducing commands (rule R91). -/
theorem reducing_iff_opCode (i : Instr) : i.reducing = true ↔ i.opCode.toNat ∈ [1, 2, 3, 4, 5, 9] := by
  cases i <;> decide

/-- A `FIB` is that of its lane. -/
theorem eq_fibOf_lane {i : Instr} : i.isFib = true → i = fibOf i.lane := by cases i <;> decide

/-- A `FIB` whose modulus is not 0 is accepted into `DESC` with its index copied (rules R186, R221, case 4). -/
theorem exec_accepted_fib {s : State} {i : Instr} (hp : s.phase = .idle) (hf : i.isFib = true)
    (hm : s.rd i.lane .M ≠ 0) :
    exec i s = .next { s.wr i.lane .K (s.rd i.lane .N) with
      cmd := encode i, done := false, phase := .desc, lvl := 0, upc := 0 } := by
  have h := exec_fibOf_idle hp hm
  rw [← eq_fibOf_lane hf] at h
  rw [h]
  cases i.lane <;> rfl

/-- Settles O45: the code of a legal word is that of its command, which says whether it reduces and whether it is a `FIB`. -/
theorem commandWriteDoesTheFirstThatHolds : Obligations.CommandWriteDoesTheFirstThatHolds := by
  intro s w _
  refine ⟨busWrite_cmd_busy w, fun hp e he => busWrite_cmd_illegal hp he, fun hp i hi => ?_⟩
  have hexec : busWrite 0x003 w s = exec i s := busWrite_cmd_idle hp hi
  have hred := reducing_iff_opCode i
  have hfib := opCode_toNat_eq_nine_iff i
  rw [hexec, (fields_of_decode hi).2, eq_encode_of_decode hi]
  refine ⟨fun hop hm => exec_refused hp (hred.2 hop) hm, fun h => ?_, fun hop hm => exec_accepted_fib hp (hfib.1 hop) hm⟩
  refine exec_accepted hp (Bool.eq_false_iff.2 fun hf => ?_) fun hr => ?_
  · have hop := hfib.2 hf
    obtain h | ⟨h, -⟩ := h <;> simp [hop] at h
  · obtain h | ⟨-, hm⟩ := h
    · have hop := hred.1 hr
      simp only [List.mem_cons, List.not_mem_nil, or_false] at h hop
      omega
    · exact hm

/-! #### `NOP` (rule R220) -/

/-- Settles O12: `NOP` does not reduce, so its issue asks for no modulus; its micro-step is the bare completion. -/
theorem nopWritesOnlyDone : Obligations.NopWritesOnlyDone := by
  refine ⟨decode_encode .nop, fun s => ⟨fun hp => ?_, fun hp => ?_, busWrite_cmd_busy 0x00⟩⟩
  · exact exec_accepted hp rfl fun h => absurd h (by decide)
  · simp only [exec, execNop, hp, complete]

end Sys2Proof.Proofs.HostAndSystem

/-! ### Proofs: the exceptions family -/

namespace Sys2Proof.Proofs.Exceptions

open Sys2Proof.Machine Sys2Proof.Proofs.StateFamily

/-! #### Error entry (rule R242) -/

/-- With an error recorded, a further one is lost (rule R248). -/
theorem raise_of_err {s : State} (e : BusError) (he : s.err = true) : raise e s = s :=
  if_pos he

/-- With no error recorded, the error and its code are (rule R242). -/
theorem raise_of_not_err {s : State} (e : BusError) (he : s.err = false) :
    raise e s = { s with err := true, errcode := e.code } :=
  if_neg (Bool.eq_false_iff.1 he)

/-- Settles O49: the codes by their definition, then the two cases of an error entry. -/
theorem raiseKeepsTheFirstError : Obligations.RaiseKeepsTheFirstError :=
  ⟨rfl, rfl, rfl, fun e _ => ⟨raise_of_not_err e, raise_of_err e⟩⟩

/-! #### A recorded error under a bus write (rules R248, R249) -/

/-- The lane-F part of the map holds registers and reserved addresses alone (rule R61). -/
theorem targetF_ne_status (a : Nat) : targetF a ≠ .status := by
  unfold targetF
  split
  · exact Target.noConfusion
  · split <;> exact Target.noConfusion

/-- The lane-B part of the map holds registers and reserved addresses alone (rule R61). -/
theorem targetB_ne_status (L a : Nat) : targetB L a ≠ .status := by
  unfold targetB
  split
  · split <;> exact Target.noConfusion
  · exact Target.noConfusion

/-- `0x002` is the only address of `STATUS` (rule R61). -/
theorem addr_eq_of_targetOf_status {L : Nat} {a : Addr} (h : targetOf L a = .status) : a = 0x002 := by
  unfold targetOf at h
  split at h
  · cases h
  · cases h
  · rename_i ha
    exact BitVec.eq_of_toNat_eq ha
  · cases h
  · split at h
    · exact absurd h (targetF_ne_status _)
    · exact absurd h (targetB_ne_status _ _)

section
variable {s t : State} (he : s.err = true)
include he

/-- A refused command finds the record taken, and so only lowers `DONE` (rule R221, cases 2 and 3). -/
theorem refuseCommand_of_err (e : BusError) : refuseCommand e s = { s with done := false } :=
  raise_of_err e he

/-- A command keeps a recorded error: an issue can at most raise another, and in flight it does not touch the record. -/
theorem execStep_keeps_error {i : Instr} (h : ExecStep i s t) : t.err = true ∧ t.errcode = s.errcode := by
  have in_flight := h.record
  cases h with
  | refuse => rw [refuseCommand_of_err he]; exact ⟨he, rfl⟩
  | accept => simp [he]
  | acceptFib => simp [he]
  | nop => simp [he]
  | primitive => simp [he]
  | fib _ hp =>
    obtain ⟨herr, hcode, -⟩ := in_flight hp
    exact ⟨herr.trans he, hcode⟩

/-- A write of `CMD` keeps a recorded error in each case of rule R221. -/
theorem issueCommand_keeps_error {w : Word} (h : issueCommand w s = .next t) : t.err = true ∧ t.errcode = s.errcode := by
  obtain ⟨-, e⟩ | ⟨-, -, e⟩ | ⟨-, i, -, e⟩ := issueCommand_cases w s <;> rw [e] at h
  · rw [raise_of_err _ he] at h
    cases h
    exact ⟨he, rfl⟩
  · rw [refuseCommand_of_err he] at h
    cases h
    exact ⟨he, rfl⟩
  · exact execStep_keeps_error he (exec_eq_next h)

/-- An operand write keeps a recorded error, dropped or not (rules R227, R228). -/
theorem writeOperand_keeps_error (ln : Lane) (r : Reg) (i : Nat) (v : Word) :
    (writeOperand ln r i v s).err = true ∧ (writeOperand ln r i v s).errcode = s.errcode := by
  unfold writeOperand
  split
  · rw [raise_of_err _ he]
    exact ⟨he, rfl⟩
  · simp [he]

end

/-- Settles O50: of the targets of a write `STATUS` alone may lower `ERR`, and no other address names it. -/
theorem recordedErrorStaysUntilCleared : Obligations.RecordedErrorStaysUntilCleared := by
  intro s t a v he ha h
  rw [busWrite] at h
  obtain ⟨-, e⟩ | ⟨-, u, e, hu⟩ := writeTarget_cases (targetOf s.L a) v s <;> rw [e] at h
  · exact issueCommand_keeps_error he h
  · cases h
    obtain rfl | ⟨-, rfl⟩ | ⟨hstatus, -⟩ | ⟨ln, r, i, -, -, rfl⟩ := hu
    · exact ⟨he, rfl⟩
    · simp [he]
    · exact absurd (addr_eq_of_targetOf_status hstatus) ha
    · exact writeOperand_keeps_error he ln r i v

end Sys2Proof.Proofs.Exceptions

/-! ### Proofs: the reset family -/

namespace Sys2Proof.Proofs.Reset

open Sys2Proof.Machine Sys2Proof.Safety Sys2Proof.Proofs.StateFamily Sys2Proof.Proofs.Memory
  Sys2Proof.Proofs.HostAndSystem

/-! #### A cycle with `rst` = 1 (rules R270 to R272) -/

/-- Under reset no access is answered (rule R272). -/
theorem busRdata_rst {p : Pins} (s : State) (hr : p.rst = true) : busRdata p s = some 0 := by
  simp [busRdata, hr]

/-- Reset comes before the access and the micro-step (rule R270). -/
theorem clockEdge_rst {p : Pins} (tick : Bool) (s : State) (hr : p.rst = true) :
    clockEdge p tick s = .next (resetBlock s) :=
  if_pos hr

/-- Reset leaves of the cycle only what the host did in it (log entry 9). -/
theorem resetBlock_hostAfter (n : Turn) (s : State) :
    resetBlock (hostAfter n s) =
      { resetBlock s with program := (hostAfter n s).program, reads := (hostAfter n s).reads } := by
  simp [resetBlock]

/-- A turn that resets is a reset of the block, whatever the host does in it (rules R10, R270). -/
theorem runTurn_rst {n : Turn} (s : State) (hr : n.rst = true) :
    runTurn n s =
      .next { resetBlock s with program := (hostAfter n s).program, reads := (hostAfter n s).reads } := by
  rw [runTurn, clockEdge_rst _ _ ((turnPins_rst n s).trans hr), resetBlock_hostAfter]

/-- Settles O51: in a cycle with `rst` = 1 the clock edge is `resetBlock`, and a step is such a cycle. -/
theorem resetClearsEverything : Obligations.ResetClearsEverything := by
  refine ⟨fun p tick s hr => ⟨busRdata_rst s hr, clockEdge_rst tick s hr⟩, fun s host tick ts hs => ?_⟩
  exact ⟨_, _, (step_eq_runTurn hs).trans (runTurn_rst _ rfl)⟩

/-! #### What the bus shows after reset (rule R273) -/

/-- `0x000` is the only address of `ID` (rule R61). -/
theorem addr_eq_of_targetOf_id {L : Nat} {a : Addr} (h : targetOf L a = .id) : a = 0x000 := by
  unfold targetOf at h
  split at h
  · rename_i ha
    exact BitVec.eq_of_toNat_eq ha
  iterate 3 cases h
  split at h
  · unfold targetF at h
    split at h
    · cases h
    · split at h <;> cases h
  · unfold targetB at h
    split at h
    · split at h <;> cases h
    · cases h

/-- After reset every register reads 0 (rule R35). -/
theorem rd_resetWith (L : Nat) (ln : Lane) (r : Reg) : (State.resetWith L).rd ln r = 0 := by
  cases ln <;> simp [State.resetWith]

/-- After reset every target but `ID` reads 0: the registers and the fields of `CTRL`, `STATUS` and `CMD` are 0. -/
theorem readTarget_resetWith (L : Nat) {x : Target} (hx : x ≠ .id) : readTarget (State.resetWith L) x = 0 := by
  cases x with
  | id => exact absurd rfl hx
  | ctrl => exact BitVec.eq_of_toNat_eq (ctrlWord_toNat _)
  | status => exact BitVec.eq_of_toNat_eq (statusWord_toNat _)
  | cmd => rfl
  | lane ln r i => simp [readTarget, rd_resetWith, limb]
  | reserved => rfl

/-- Settles O52: the invariant bounds `L`, `ID` shows it, no other address names `ID`, and an idle core stands still. -/
theorem afterResetEverythingReadsZero : Obligations.AfterResetEverythingReadsZero := by
  have hc : Capacity State.reset := invariantHoldsAfterReset.1.capacity
  refine ⟨hc.one_le, hc.le_256, idWord_toNat hc.le_256, fun a ha => ?_, rfl, rfl, rfl⟩
  exact readTarget_resetWith _ fun hid => ha (addr_eq_of_targetOf_id hid)

end Sys2Proof.Proofs.Reset
